-- ==== Sys2Proof/Word.lean ====
section
/-! DEFINITION. The word and byte types of the machine (spec 00_scope.md R2, R4, R7). -/

namespace Sys2Proof

/-- A 32-bit word: registers and addresses (R2, R4). Its arithmetic wraps modulo 2^32 (R7). -/
abbrev Word := BitVec 32

/-- A byte of memory (20_memory.md R70). -/
abbrev Byte := BitVec 8

/-- The number of a register in a register map, 0 to 31 (10_state.md R20). -/
abbrev RegNum := BitVec 5

end Sys2Proof
end

