-- ==== Sys2Proof/Syntax.lean ====
section
/-! DEFINITION. The instructions: one constructor per row of spec/opcode_table.json, in the table's order
(30_encoding.md R103, R105), with the field names of the instructions' own rules. -/

namespace Sys2Proof

/-- The sixteen condition codes, in the order of their numbers (45_branch.md R201). -/
inductive Cond where
  | never | carry | zero | overflow
  | carryOrEqual | signedLess | signedLessOrEq | negative
  | positive | signedGreater | signedGreaterOrEq | above
  | notOverflow | notZero | notCarry | always
  deriving DecidableEq, Repr

/-- The width of a memory access (42_load_store.md R155). -/
inductive Width where
  | byte | half | word
  deriving DecidableEq, Repr

/-- The 2-bit width field `wd` of ST and LD (R155): 1, 2, 4 bytes, and the illegal 8. -/
inductive WidthField where
  | byte | half | word | eight
  deriving DecidableEq, Repr

/-- The 2-bit update mode field `m` of ST and LD (42_load_store.md R154); value 2 is illegal. -/
inductive UpdateMode where
  | none | postInc | illegal | preDec
  deriving DecidableEq, Repr

/-- The extend kind of EXT (47_flags_xchg_ext.md R234): field value 0 is `sign`, 1 is `zero`. -/
inductive ExtKind where
  | sign | zero
  deriving DecidableEq, Repr

/-- The direction bit of MOV (41_move.md R140): 0 `fromMap` reads register `s` of map `m`,
1 `toMap` writes register `d` of map `m`. With `m = 0` it has no effect. -/
inductive Direction where
  | fromMap | toMap
  deriving DecidableEq, Repr

/-- An instruction. A Bool field is a one-bit field, `true` for 1. -/
inductive Instr where
  /-- UND, opcode 0x00 (R130); the payload is ignored. -/
  | und00 (payload : BitVec 24)
  /-- PAUSE (R131). -/
  | pause (k : BitVec 6)
  /-- MOV (R140). -/
  | mov (d s : RegNum) (l : Bool) (c : Cond) (dir : Direction) (m : BitVec 4)
  /-- ST (R150): `d` address register, `s` value register. -/
  | st (d s : RegNum) (wd : WidthField) (m : UpdateMode)
  /-- LD (R151): `d` destination, `s` address register. -/
  | ld (d s : RegNum) (wd : WidthField) (m : UpdateMode)
  /-- LDI (R152). -/
  | ldi (d : RegNum) (x : Bool) (i : BitVec 16)
  /-- LRA (R153). -/
  | lra (d : RegNum) (x : Bool) (o : BitVec 16)
  /-- ADDI (R170): `s` extend sign, `c` suppress flags, `h` high half. -/
  | addi (d : RegNum) (s c h : Bool) (i : BitVec 16)
  /-- ADD (R172); `c` suppress flags, `s` shift quantity, `p` shift polarity (R171). -/
  | add (d a b : RegNum) (c : Bool) (s : BitVec 5) (p : Bool)
  /-- SUB (R173). -/
  | sub (d a b : RegNum) (c : Bool) (s : BitVec 5) (p : Bool)
  /-- AND (R174); bit 0 of `i` inverts operand 1, bit 1 operand 2. -/
  | and (d a b : RegNum) (c : Bool) (s : BitVec 5) (p : Bool) (i : BitVec 2)
  /-- OR (R175). -/
  | or (d a b : RegNum) (c : Bool) (s : BitVec 5) (p : Bool) (i : BitVec 2)
  /-- XOR (R176). -/
  | xor (d a b : RegNum) (c : Bool) (s : BitVec 5) (p : Bool) (i : BitVec 2)
  /-- FSL (R190, R195); `x` invert by sign, `wr` wrap quantity. -/
  | fsl (d v q : RegNum) (c x wr : Bool) (r : RegNum)
  /-- FSR (R190, R196). -/
  | fsr (d v q : RegNum) (c x wr : Bool) (r : RegNum)
  /-- JMP (R203): `l` link register, `o` signed count of instructions. -/
  | jmp (c : Cond) (l : RegNum) (o : BitVec 15)
  /-- JMPR (R204). -/
  | jmpr (c : Cond) (l r : RegNum)
  /-- IN (R221): transfer register `d`, port `p`, bit count `n`. -/
  | portIn (d : RegNum) (p : BitVec 8) (n : BitVec 5)
  /-- OUT (R222). -/
  | portOut (s : RegNum) (p : BitVec 8) (n : BitVec 5)
  /-- LDFLAGS (R230). -/
  | ldflags (d : RegNum)
  /-- STFLAGS (R231). -/
  | stflags (s : RegNum)
  /-- XVP (R232). -/
  | xvp
  /-- XCHG (R233). -/
  | xchg (a b : RegNum) (l : Bool) (c : Cond)
  /-- EXT (R234): bit count `n`. -/
  | ext (d s : RegNum) (x : ExtKind) (n : BitVec 5)
  /-- CPI0 (R252). -/
  | cpi0 (f : BitVec 4) (p : BitVec 20)
  /-- CPI1 (R252). -/
  | cpi1 (f : BitVec 4) (p : BitVec 20)
  /-- CPI2 (R252). -/
  | cpi2 (f : BitVec 4) (p : BitVec 20)
  /-- CPI3 (R252). -/
  | cpi3 (f : BitVec 4) (p : BitVec 20)
  /-- CPI4 (R252). -/
  | cpi4 (f : BitVec 4) (p : BitVec 20)
  /-- CPI5 (R252). -/
  | cpi5 (f : BitVec 4) (p : BitVec 20)
  /-- CPI6 (R252). -/
  | cpi6 (f : BitVec 4) (p : BitVec 20)
  /-- CPI7 (R252). -/
  | cpi7 (f : BitVec 4) (p : BitVec 20)
  /-- NCPI0 (R253). -/
  | ncpi0 (f : BitVec 4) (p : BitVec 20)
  /-- NCPI1 (R253). -/
  | ncpi1 (f : BitVec 4) (p : BitVec 20)
  /-- NCPI2 (R253). -/
  | ncpi2 (f : BitVec 4) (p : BitVec 20)
  /-- NCPI3 (R253). -/
  | ncpi3 (f : BitVec 4) (p : BitVec 20)
  /-- NCPI4 (R253). -/
  | ncpi4 (f : BitVec 4) (p : BitVec 20)
  /-- NCPI5 (R253). -/
  | ncpi5 (f : BitVec 4) (p : BitVec 20)
  /-- NCPI6 (R253). -/
  | ncpi6 (f : BitVec 4) (p : BitVec 20)
  /-- NCPI7 (R253). -/
  | ncpi7 (f : BitVec 4) (p : BitVec 20)
  /-- CPI0EF (R254). -/
  | cpi0ef (f : BitVec 6) (p : BitVec 18)
  /-- CPI1EF (R254). -/
  | cpi1ef (f : BitVec 6) (p : BitVec 18)
  /-- CPI2EF (R254). -/
  | cpi2ef (f : BitVec 6) (p : BitVec 18)
  /-- CPI3EF (R254). -/
  | cpi3ef (f : BitVec 6) (p : BitVec 18)
  /-- CPI4EF (R254). -/
  | cpi4ef (f : BitVec 6) (p : BitVec 18)
  /-- CPI5EF (R254). -/
  | cpi5ef (f : BitVec 6) (p : BitVec 18)
  /-- CPI6EF (R254). -/
  | cpi6ef (f : BitVec 6) (p : BitVec 18)
  /-- CPI7EF (R254). -/
  | cpi7ef (f : BitVec 6) (p : BitVec 18)
  /-- NCPI0EF (R255). -/
  | ncpi0ef (f : BitVec 6) (p : BitVec 18)
  /-- NCPI1EF (R255). -/
  | ncpi1ef (f : BitVec 6) (p : BitVec 18)
  /-- NCPI2EF (R255). -/
  | ncpi2ef (f : BitVec 6) (p : BitVec 18)
  /-- NCPI3EF (R255). -/
  | ncpi3ef (f : BitVec 6) (p : BitVec 18)
  /-- NCPI4EF (R255). -/
  | ncpi4ef (f : BitVec 6) (p : BitVec 18)
  /-- NCPI5EF (R255). -/
  | ncpi5ef (f : BitVec 6) (p : BitVec 18)
  /-- NCPI6EF (R255). -/
  | ncpi6ef (f : BitVec 6) (p : BitVec 18)
  /-- NCPI7EF (R255). -/
  | ncpi7ef (f : BitVec 6) (p : BitVec 18)
  /-- HALT (R265). -/
  | halt
  /-- STOP (R266). -/
  | stop
  /-- UND, opcode 0xFF (R130); the payload is ignored. -/
  | undFF (payload : BitVec 24)
  deriving DecidableEq, Repr

end Sys2Proof
end

