-- ==== Sys2Proof/Config.lean ====
section
/-! DEFINITION. What an implementation fixes (the parameters of 00_scope.md R5, as plain data) and the free
values: opaque constants with no body, which nothing can evaluate. -/

namespace Sys2Proof

/-- What a memory access is for (20_memory.md R76). -/
inductive AccessKind where
  | fetch | read | write
  deriving DecidableEq, Repr

/-- The synchronous exceptions EX[1] to EX[4] (60_exceptions.md R300). -/
inductive SyncExc where
  /-- EX[1], Bus Fault. -/
  | busFault
  /-- EX[2], Invalid Instruction. -/
  | invalidInstruction
  /-- EX[3], Unaligned Branch Target. -/
  | unalignedBranch
  /-- EX[4], Consistency. -/
  | consistency
  deriving DecidableEq, Repr

/-- The parameter EXC_RETURN_ADDR (60_exceptions.md R331). -/
inductive ExcReturn where
  | faulting | next
  deriving DecidableEq, Repr

/-- An IRQ vector, as its distance from 32: `i` is table entry `32 + i` (R300, R321). -/
abbrev IrqNum := Fin 32

/-- A range of accesses that end in a bus error: those of this kind and width at an address from
`first` to `last`. A list of holes is any predicate BusOK of R76 (log 9). -/
structure BusHole where
  kind : AccessKind
  width : Width
  first : Word
  last : Word
  deriving DecidableEq, Repr

/-- A range of values, `first` to `last`, that are illegal for a coprocessor-defined register
(the complement of CP_VALUE_VALID, 10_state.md R51). -/
structure IllegalValues where
  map : BitVec 4
  reg : RegNum
  first : Word
  last : Word
  deriving DecidableEq, Repr

/-- The parameters of R5 that are not oracles. Plain data; no step changes it (log 4). -/
structure Platform where
  /-- CP_PRESENT (R47). -/
  cpPresent : BitVec 8
  /-- CP_REG_DEFINED: the pairs (n, k) for which register k of map 8 + n exists (R49). -/
  cpRegs : List (BitVec 3 × RegNum)
  /-- CP_VALUE_VALID, by its complement (R51). -/
  cpIllegal : List IllegalValues
  /-- BusOK, by its complement (R76). -/
  busHoles : List BusHole
  /-- IRQ_BUFFER_CAPACITY (R313). -/
  irqCapacity : Nat
  /-- IRQ_VECTOR: the vector of IRQ source k is the k-th entry (R321). -/
  irqVector : List IrqNum
  /-- EXC_RETURN_ADDR (R331). -/
  excReturn : ExcReturn
  /-- CPI_DISABLED_EXC (R251), a synchronous exception. -/
  cpiDisabledExc : SyncExc
  deriving DecidableEq, Repr

/-- The platform of `State.reset`: every access answered, no coprocessor, no IRQ buffer, and the
spec's defaults for the rest. DESIGN CHOICE, unsafe (log 4): the spec gives no values. -/
def Platform.bare : Platform where
  cpPresent := 0
  cpRegs := []
  cpIllegal := []
  busHoles := []
  irqCapacity := 0
  irqVector := []
  excReturn := .faulting
  cpiDisabledExc := .unalignedBranch

/-- The function and payload of a coprocessor instruction, and which form carried them
(48_coprocessor.md R250, R257). -/
inductive CpFunction where
  | base (f : BitVec 4) (p : BitVec 20)
  | extended (f : BitVec 6) (p : BitVec 18)
  deriving DecidableEq, Repr

/-- One call from the CPU to a port or a coprocessor (46_io_transfer.md R220, 48_coprocessor.md R250). -/
inductive EnvCall where
  /-- `Port.read(p, n)` and the bits it returned. -/
  | portRead (p : BitVec 8) (n : BitVec 5) (bits : Word)
  /-- `Port.write(p, n, bits)`. -/
  | portWrite (p : BitVec 8) (n : BitVec 5) (bits : Word)
  /-- `Coproc.execute(cp, ef, f, p)`. -/
  | cpExecute (cp : BitVec 3) (fn : CpFunction)
  /-- `Coproc.wait(cp)`, which returns at once. -/
  | cpWait (cp : BitVec 3)
  /-- `Coproc.pull_exception(cp)` and its answer. -/
  | cpPull (cp : BitVec 3) (err : Bool)
  /-- A MOV read of register `k` of map `m`, a coprocessor's, and the value it gave. -/
  | cpRead (m : BitVec 4) (k : RegNum) (v : Word)
  /-- A MOV write of register `k` of map `m`, a coprocessor's. -/
  | cpWrite (m : BitVec 4) (k : RegNum) (v : Word)
  deriving DecidableEq, Repr

namespace Config

/-- The bits port `p` returns for a read of `n` bits after the given calls: a free value (log 7). -/
opaque portBits : List EnvCall → BitVec 8 → BitVec 5 → Word

/-- The value a coprocessor gives for register `k` of map `m` after the given calls: a free value (log 8). -/
opaque cpValue : List EnvCall → BitVec 4 → RegNum → Word

/-- Whether coprocessor `cp` reports an error after the given calls: a free value (log 8). -/
opaque cpReportsError : List EnvCall → BitVec 3 → Bool

/-- What register `k` of map `m` (0, 1 or 2) holds after the RESET numbered by the first argument:
a free value (log 2). -/
opaque resetWord : Nat → BitVec 4 → RegNum → Word

/-- What the flags hold after the RESET numbered by the argument: a free value (log 2). -/
opaque resetFlags : Nat → BitVec 5

end Config

end Sys2Proof
end

