-- ==== Sys2Proof/Machine/State.lean ====
section
/-! DEFINITION. The state of the machine: everything the spec gives the CPU (10_state.md), the memory
(20_memory.md), the parameters of 00_scope.md R5 as plain data, and what the environment has still to give and has
been given (60_exceptions.md R320, 46_io_transfer.md R220, 48_coprocessor.md R250). -/

namespace Sys2Proof.Machine

/-- The five flags (10_state.md R25). -/
structure Flags where
  /-- Carry, bit 0. -/
  c : Bool
  /-- Signed overflow, bit 1. -/
  v : Bool
  /-- Negative, bit 2. -/
  n : Bool
  /-- Zero, bit 3. -/
  z : Bool
  /-- Parity, bit 4: a storage bit (47_flags_xchg_ext.md R235). -/
  p : Bool
  deriving DecidableEq, Repr

/-- The run state (10_state.md R52). Status 0 is `executing`, 2 `halted`, 3 `stopped`; 1 does not exist. -/
inductive Status where
  | executing | halted | stopped
  deriving DecidableEq, Repr

/-- An asynchronous event (60_exceptions.md R300, R320). -/
inductive Event where
  /-- EX[7], the non-maskable interrupt. -/
  | nmi
  /-- EX[8 + cp], an error of coprocessor `cp`. -/
  | unitError (cp : BitVec 3)
  /-- Table entry `32 + v`, an IRQ. -/
  | irq (v : IrqNum)
  deriving DecidableEq, Repr

/-- An input of the step relation (60_exceptions.md R320). -/
inductive Input where
  | reset
  | event (e : Event)
  | tick
  deriving DecidableEq, Repr

/-- Memory: (address, byte) pairs, addresses strictly rising, no entry equal to what an unlisted address
reads as (`Memory.wf`). -/
abbrev Memory := List Host.Cell

/-- The state of the machine. -/
structure State where
  /-- Map 0, r0 to r31 (R21). r0 has no effect here: `State.readReg` gives 0 for it (R22). -/
  regs : Vector Word 32
  /-- The instruction pointer: between instructions, the address of the next instruction (R23). -/
  pc : Word
  /-- The flags register (R25). -/
  flags : Flags
  /-- Status (R52). -/
  status : Status
  /-- `intctl.m`, the priority mask (R30, R31). -/
  mask : BitVec 2
  /-- `intctl.a`, abort triggered (R30, R32). -/
  abort : Bool
  /-- Map 1 register 1 (R34). -/
  intret1 : Word
  /-- Map 1 register 2 (R34). -/
  intret2 : Word
  /-- Map 1 register 3 (R34). -/
  intret3 : Word
  /-- `ints0` to `ints3`, Map 1 registers 4 to 7 (R35). -/
  ints : Vector Word 4
  /-- `intd0` to `intd3`, Map 1 registers 8 to 11 (R36). -/
  intd : Vector Word 4
  /-- Bits 31:3 of `inttab`, Map 1 register 31; bits 2:0 are 0 (R37). -/
  inttab : BitVec 29
  /-- Map 2, `io0` to `io31` (R39). -/
  io : Vector Word 32
  /-- Bits 7:0 of `cpe`, Map 4 register 30; bits 31:8 are 0 (R44). -/
  cpe : BitVec 8
  /-- The pending IRQs, oldest first (R53). -/
  irqBuffer : List IrqNum
  /-- Memory (20_memory.md R70). -/
  mem : Memory
  /-- The parameters of R5; no step changes them. -/
  plat : Platform
  /-- The inputs to come; when there are none, each step is a Tick (R320). -/
  inputs : List Input
  /-- The answers to the next reads of ports; when there are none, `Config.portBits` answers. -/
  portAnswers : List Word
  /-- The answers to the next reads of coprocessor registers; then `Config.cpValue`. -/
  cpAnswers : List Word
  /-- The answers to the next `pull_exception` calls; then `Config.cpReportsError`. -/
  cpErrors : List Bool
  /-- The calls made to ports and coprocessors, newest first (46_io_transfer.md R220). -/
  log : List EnvCall
  /-- How many RESET transitions there were: it numbers the free values they leave (log 2). -/
  resets : Nat
  deriving DecidableEq, Repr

/-- Why the machine stops with a fault. -/
inductive Fault where
  /-- Raised by the fetch alone, where the pc is not a multiple of 4. Safe: 10_state.md R24 and 20_memory.md R72
  say that this cannot happen, and no step from a state with an aligned pc gives one with an unaligned pc (log 14). -/
  | misalignedFetch
  deriving DecidableEq, Repr

/-- Why an instruction has no meaning here. -/
inductive Refusal where
  /-- Raised by an arm of `exec` for an instruction not modelled yet; no arm raises it. Safe. -/
  | notModelled (mnemonic : String)
  deriving DecidableEq, Repr

/-- The machine after reset on a platform: 70_reset_and_hazards.md R400 and 10_state.md R55. The registers the spec
leaves undefined hold 0: DESIGN CHOICE, unsafe (log 1). -/
def State.resetOn (p : Platform) : State where
  regs := Vector.replicate 32 0#32
  pc := 0x0000FF00#32
  flags := { c := false, v := false, n := false, z := false, p := false }
  status := .executing
  mask := 0#2
  abort := false
  intret1 := 0#32
  intret2 := 0#32
  intret3 := 0#32
  ints := Vector.replicate 4 0#32
  intd := Vector.replicate 4 0#32
  inttab := 0#29
  io := Vector.replicate 32 0#32
  cpe := 0#8
  irqBuffer := []
  mem := []
  plat := p
  inputs := []
  portAnswers := []
  cpAnswers := []
  cpErrors := []
  log := []
  resets := 0

/-- The machine right after reset, on the bare platform. -/
def State.reset : State := State.resetOn Platform.bare

end Sys2Proof.Machine
end

