-- ==== Sys2Proof/Machine/Flags.lean ====
section
/-! DEFINITION. The flag values of arithmetic and logic (43_arithmetic_logic.md R177, R178) and the sixteen
condition codes (45_branch.md R200, R201). -/

namespace Sys2Proof.Machine

/-- The flags of `a + b` (R177); p is kept. -/
def addFlags (a b : Word) (old : Flags) : Flags :=
  let r := a + b
  { c := decide (2 ^ 32 ≤ a.toNat + b.toNat)
    v := a.msb == b.msb && r.msb != a.msb
    n := r.msb
    z := r == 0#32
    p := old.p }

/-- The flags of `a - b`, the carry being the borrow (R177); p is kept. -/
def subFlags (a b : Word) (old : Flags) : Flags :=
  let r := a - b
  { c := decide (a.toNat < b.toNat)
    v := a.msb != b.msb && r.msb != a.msb
    n := r.msb
    z := r == 0#32
    p := old.p }

/-- The flags of a logic result: n and z; c, v and p are kept (R178). -/
def logicFlags (r : Word) (old : Flags) : Flags :=
  { old with n := r.msb, z := r == 0#32 }

/-- The flags an instruction leaves: the old ones where its suppress bit is 1 (R179). -/
def unlessSuppressed (suppress : Bool) (old new : Flags) : Flags := if suppress then old else new

/-- `CheckCondition(flags, cc)` (R200, R201). -/
def checkCondition (f : Flags) : Cond → Bool
  | .never => false
  | .carry => f.c
  | .zero => f.z
  | .overflow => f.v
  | .carryOrEqual => f.c || f.z
  | .signedLess => f.v == f.n && !f.z
  | .signedLessOrEq => f.v == f.n || f.z
  | .negative => f.n
  | .positive => !f.n
  | .signedGreater => !(f.v == f.n || f.z)
  | .signedGreaterOrEq => !(f.v == f.n && !f.z)
  | .above => !(f.c || f.z)
  | .notOverflow => !f.v
  | .notZero => !f.z
  | .notCarry => !f.c
  | .always => true

end Sys2Proof.Machine
end

