-- ==== Sys2Proof/WellFormed.lean ====
section
/-! DEFINITION. The static checks on an instruction: the illegal field values of 30_encoding.md R109 that do not
depend on the state. An instruction that fails one raises EX[2] in every state. -/

namespace Sys2Proof

/-- ST or LD: update mode 2, width field 3 and base register 0 are illegal (42_load_store.md R150, R151). -/
def memFormLegal (base : RegNum) (wd : WidthField) (m : UpdateMode) : Bool :=
  m != .illegal && base != 0#5 && wd != .eight

/-- MOV: register `k` of map `m` is one that some state lets MOV read (`dir = fromMap`) or write
(`dir = toMap`), by the table of 10_state.md R50. -/
def mapRegLegal (dir : Direction) (m : BitVec 4) (k : RegNum) : Bool :=
  if m = 1#4 then k.toNat ≤ 11 || k == 31#5
  else if m = 3#4 then dir == .fromMap
  else if m = 4#4 then k.toNat ≤ 7 || k == 30#5 || (k == 31#5 && dir == .fromMap)
  else !(m == 5#4 || m == 6#4 || m == 7#4)

/-- The instruction has no illegal field value. -/
def Instr.wf : Instr → Bool
  | .st d _ wd m => memFormLegal d wd m
  | .ld _ s wd m => memFormLegal s wd m
  | .mov d s _ _ dir m => mapRegLegal dir m (if dir = .toMap then d else s)
  | .und00 _ | .undFF _ | .pause _ | .ldi _ _ _ | .lra _ _ _ | .addi _ _ _ _ _
  | .add _ _ _ _ _ _ | .sub _ _ _ _ _ _ | .and _ _ _ _ _ _ _ | .or _ _ _ _ _ _ _ | .xor _ _ _ _ _ _ _
  | .fsl _ _ _ _ _ _ _ | .fsr _ _ _ _ _ _ _ | .jmp _ _ _ | .jmpr _ _ _
  | .portIn _ _ _ | .portOut _ _ _ | .ldflags _ | .stflags _ | .xvp | .xchg _ _ _ _ | .ext _ _ _ _
  | .cpi0 _ _ | .cpi1 _ _ | .cpi2 _ _ | .cpi3 _ _ | .cpi4 _ _ | .cpi5 _ _ | .cpi6 _ _ | .cpi7 _ _
  | .ncpi0 _ _ | .ncpi1 _ _ | .ncpi2 _ _ | .ncpi3 _ _ | .ncpi4 _ _ | .ncpi5 _ _ | .ncpi6 _ _ | .ncpi7 _ _
  | .cpi0ef _ _ | .cpi1ef _ _ | .cpi2ef _ _ | .cpi3ef _ _ | .cpi4ef _ _ | .cpi5ef _ _ | .cpi6ef _ _
  | .cpi7ef _ _ | .ncpi0ef _ _ | .ncpi1ef _ _ | .ncpi2ef _ _ | .ncpi3ef _ _ | .ncpi4ef _ _
  | .ncpi5ef _ _ | .ncpi6ef _ _ | .ncpi7ef _ _ | .halt | .stop => true

end Sys2Proof
end

