-- ==== Sys2Proof/Decode.lean ====
section
/-! DEFINITION. Decoding and encoding (30_encoding.md R100 to R111). Decoding is total: a word that is no row of
the opcode table is rejected by name, and the machine raises EX[2] for it. -/

namespace Sys2Proof

/-- Why bytes are no instruction. -/
inductive DecodeError where
  /-- Fewer than the four bytes of an instruction. -/
  | truncated
  /-- The opcode is not one of R105 (R106). -/
  | unknownOpcode (op : BitVec 8)
  /-- The opcode is known and a must-be-zero bit is 1 (R108). -/
  | reservedBitSet (op : BitVec 8)
  deriving DecidableEq, Repr

/-- Bits `lo + len - 1` down to `lo` of the instruction word (00_scope.md R6). -/
def field (w : Word) (lo len : Nat) : BitVec len := w.extractLsb' lo len

/-- Bit `k` of the instruction word. -/
def bit (w : Word) (k : Nat) : Bool := w.getLsbD k

/-- The word with `v` at bits `lo` and up, and 0 elsewhere. -/
def put {n : Nat} (lo : Nat) (v : BitVec n) : Word := v.setWidth 32 <<< lo

/-- The word with the one-bit field `b` at bit `k`, and 0 elsewhere. -/
def putBit (k : Nat) (b : Bool) : Word := put k (BitVec.ofBool b)

/-- The condition code with a number (45_branch.md R201). -/
def condOfBits (b : BitVec 4) : Cond :=
  match b.toNat with
  | 0 => .never | 1 => .carry | 2 => .zero | 3 => .overflow
  | 4 => .carryOrEqual | 5 => .signedLess | 6 => .signedLessOrEq | 7 => .negative
  | 8 => .positive | 9 => .signedGreater | 10 => .signedGreaterOrEq | 11 => .above
  | 12 => .notOverflow | 13 => .notZero | 14 => .notCarry | _ => .always

/-- The number of a condition code (R201). -/
def condToBits : Cond → BitVec 4
  | .never => 0 | .carry => 1 | .zero => 2 | .overflow => 3
  | .carryOrEqual => 4 | .signedLess => 5 | .signedLessOrEq => 6 | .negative => 7
  | .positive => 8 | .signedGreater => 9 | .signedGreaterOrEq => 10 | .above => 11
  | .notOverflow => 12 | .notZero => 13 | .notCarry => 14 | .always => 15

/-- The width field (42_load_store.md R155). -/
def widthOfBits (b : BitVec 2) : WidthField :=
  match b.toNat with
  | 0 => .byte | 1 => .half | 2 => .word | _ => .eight

/-- The bits of a width field. -/
def widthToBits : WidthField → BitVec 2
  | .byte => 0 | .half => 1 | .word => 2 | .eight => 3

/-- The update mode field (R154). -/
def modeOfBits (b : BitVec 2) : UpdateMode :=
  match b.toNat with
  | 0 => .none | 1 => .postInc | 2 => .illegal | _ => .preDec

/-- The bits of an update mode. -/
def modeToBits : UpdateMode → BitVec 2
  | .none => 0 | .postInc => 1 | .illegal => 2 | .preDec => 3

/-- The extend kind: Sign = 0, Zero = 1 (47_flags_xchg_ext.md R234). -/
def extKindOfBit (b : Bool) : ExtKind := if b then .zero else .sign

/-- The bit of an extend kind. -/
def extKindToBit (x : ExtKind) : Bool := x == .zero

/-- The direction bit of MOV (41_move.md R140). -/
def directionOfBit (b : Bool) : Direction := if b then .toMap else .fromMap

/-- The bit of a direction. -/
def directionToBit (d : Direction) : Bool := d == .toMap

/-- The instruction, where its must-be-zero bits are 0 (`zero`); otherwise the word is malformed (R108). -/
def ifZero (w : Word) (zero : Bool) (i : Instr) : Except DecodeError Instr :=
  if zero then .ok i else .error (.reservedBitSet (field w 0 8))

/-- The instruction of a word, by the procedure of R111. -/
def decode (w : Word) : Except DecodeError Instr :=
  match (field w 0 8).toNat with
  | 0x00 => .ok (.und00 (field w 8 24))
  | 0x01 => ifZero w (field w 14 18 == 0#18) (.pause (field w 8 6))
  | 0x02 => ifZero w (field w 18 2 == 0#2 && field w 30 2 == 0#2)
      (.mov (field w 8 5) (field w 13 5) (bit w 20) (condOfBits (field w 21 4)) (directionOfBit (bit w 25)) (field w 26 4))
  | 0x03 => ifZero w (field w 20 10 == 0#10)
      (.st (field w 8 5) (field w 13 5) (widthOfBits (field w 18 2)) (modeOfBits (field w 30 2)))
  | 0x04 => ifZero w (field w 20 10 == 0#10)
      (.ld (field w 8 5) (field w 13 5) (widthOfBits (field w 18 2)) (modeOfBits (field w 30 2)))
  | 0x05 => ifZero w (field w 14 2 == 0#2) (.ldi (field w 8 5) (bit w 13) (field w 16 16))
  | 0x06 => ifZero w (field w 14 2 == 0#2) (.lra (field w 8 5) (bit w 13) (field w 16 16))
  | 0x08 => .ok (.addi (field w 8 5) (bit w 13) (bit w 14) (bit w 15) (field w 16 16))
  | 0x09 => ifZero w (field w 30 2 == 0#2)
      (.add (field w 8 5) (field w 13 5) (field w 18 5) (bit w 23) (field w 24 5) (bit w 29))
  | 0x0A => ifZero w (field w 30 2 == 0#2)
      (.sub (field w 8 5) (field w 13 5) (field w 18 5) (bit w 23) (field w 24 5) (bit w 29))
  | 0x0B => .ok (.and (field w 8 5) (field w 13 5) (field w 18 5) (bit w 23) (field w 24 5) (bit w 29) (field w 30 2))
  | 0x0C => .ok (.or (field w 8 5) (field w 13 5) (field w 18 5) (bit w 23) (field w 24 5) (bit w 29) (field w 30 2))
  | 0x0D => .ok (.xor (field w 8 5) (field w 13 5) (field w 18 5) (bit w 23) (field w 24 5) (bit w 29) (field w 30 2))
  | 0x0E => ifZero w (field w 25 1 == 0#1)
      (.fsl (field w 8 5) (field w 13 5) (field w 18 5) (bit w 23) (bit w 24) (bit w 26) (field w 27 5))
  | 0x0F => ifZero w (field w 25 1 == 0#1)
      (.fsr (field w 8 5) (field w 13 5) (field w 18 5) (bit w 23) (bit w 24) (bit w 26) (field w 27 5))
  | 0x10 => .ok (.jmp (condOfBits (field w 8 4)) (field w 12 5) (field w 17 15))
  | 0x11 => ifZero w (field w 22 10 == 0#10) (.jmpr (condOfBits (field w 8 4)) (field w 12 5) (field w 17 5))
  | 0x14 => ifZero w (field w 21 6 == 0#6) (.portIn (field w 8 5) (field w 13 8) (field w 27 5))
  | 0x15 => ifZero w (field w 21 6 == 0#6) (.portOut (field w 8 5) (field w 13 8) (field w 27 5))
  | 0x18 => ifZero w (field w 13 19 == 0#19) (.ldflags (field w 8 5))
  | 0x19 => ifZero w (field w 13 19 == 0#19) (.stflags (field w 8 5))
  | 0x1A => ifZero w (field w 8 24 == 0#24) .xvp
  | 0x1C => ifZero w (field w 18 2 == 0#2 && field w 25 7 == 0#7)
      (.xchg (field w 8 5) (field w 13 5) (bit w 20) (condOfBits (field w 21 4)))
  | 0x1D => ifZero w (field w 19 8 == 0#8)
      (.ext (field w 8 5) (field w 13 5) (extKindOfBit (bit w 18)) (field w 27 5))
  | 0x20 => .ok (.cpi0 (field w 8 4) (field w 12 20))
  | 0x21 => .ok (.cpi1 (field w 8 4) (field w 12 20))
  | 0x22 => .ok (.cpi2 (field w 8 4) (field w 12 20))
  | 0x23 => .ok (.cpi3 (field w 8 4) (field w 12 20))
  | 0x24 => .ok (.cpi4 (field w 8 4) (field w 12 20))
  | 0x25 => .ok (.cpi5 (field w 8 4) (field w 12 20))
  | 0x26 => .ok (.cpi6 (field w 8 4) (field w 12 20))
  | 0x27 => .ok (.cpi7 (field w 8 4) (field w 12 20))
  | 0x28 => .ok (.ncpi0 (field w 8 4) (field w 12 20))
  | 0x29 => .ok (.ncpi1 (field w 8 4) (field w 12 20))
  | 0x2A => .ok (.ncpi2 (field w 8 4) (field w 12 20))
  | 0x2B => .ok (.ncpi3 (field w 8 4) (field w 12 20))
  | 0x2C => .ok (.ncpi4 (field w 8 4) (field w 12 20))
  | 0x2D => .ok (.ncpi5 (field w 8 4) (field w 12 20))
  | 0x2E => .ok (.ncpi6 (field w 8 4) (field w 12 20))
  | 0x2F => .ok (.ncpi7 (field w 8 4) (field w 12 20))
  | 0x30 => .ok (.cpi0ef (field w 8 6) (field w 14 18))
  | 0x31 => .ok (.cpi1ef (field w 8 6) (field w 14 18))
  | 0x32 => .ok (.cpi2ef (field w 8 6) (field w 14 18))
  | 0x33 => .ok (.cpi3ef (field w 8 6) (field w 14 18))
  | 0x34 => .ok (.cpi4ef (field w 8 6) (field w 14 18))
  | 0x35 => .ok (.cpi5ef (field w 8 6) (field w 14 18))
  | 0x36 => .ok (.cpi6ef (field w 8 6) (field w 14 18))
  | 0x37 => .ok (.cpi7ef (field w 8 6) (field w 14 18))
  | 0x38 => .ok (.ncpi0ef (field w 8 6) (field w 14 18))
  | 0x39 => .ok (.ncpi1ef (field w 8 6) (field w 14 18))
  | 0x3A => .ok (.ncpi2ef (field w 8 6) (field w 14 18))
  | 0x3B => .ok (.ncpi3ef (field w 8 6) (field w 14 18))
  | 0x3C => .ok (.ncpi4ef (field w 8 6) (field w 14 18))
  | 0x3D => .ok (.ncpi5ef (field w 8 6) (field w 14 18))
  | 0x3E => .ok (.ncpi6ef (field w 8 6) (field w 14 18))
  | 0x3F => .ok (.ncpi7ef (field w 8 6) (field w 14 18))
  | 0x40 => ifZero w (field w 8 24 == 0#24) .halt
  | 0x41 => ifZero w (field w 8 24 == 0#24) .stop
  | 0xFF => .ok (.undFF (field w 8 24))
  | _ => .error (.unknownOpcode (field w 0 8))

/-- The word of an instruction, written from the field positions of R103: the opcode at bits 7:0, each field at its
lowest bit, and 0 in the must-be-zero bits. -/
def encode : Instr → Word
  | .und00 payload => put 0 0x00#8 ||| put 8 payload
  | .pause k => put 0 0x01#8 ||| put 8 k
  | .mov d s l c dir m =>
      put 0 0x02#8 ||| put 8 d ||| put 13 s ||| putBit 20 l ||| put 21 (condToBits c)
      ||| putBit 25 (directionToBit dir) ||| put 26 m
  | .st d s wd m => put 0 0x03#8 ||| put 8 d ||| put 13 s ||| put 18 (widthToBits wd) ||| put 30 (modeToBits m)
  | .ld d s wd m => put 0 0x04#8 ||| put 8 d ||| put 13 s ||| put 18 (widthToBits wd) ||| put 30 (modeToBits m)
  | .ldi d x i => put 0 0x05#8 ||| put 8 d ||| putBit 13 x ||| put 16 i
  | .lra d x o => put 0 0x06#8 ||| put 8 d ||| putBit 13 x ||| put 16 o
  | .addi d s c h i => put 0 0x08#8 ||| put 8 d ||| putBit 13 s ||| putBit 14 c ||| putBit 15 h ||| put 16 i
  | .add d a b c s p =>
      put 0 0x09#8 ||| put 8 d ||| put 13 a ||| put 18 b ||| putBit 23 c ||| put 24 s ||| putBit 29 p
  | .sub d a b c s p =>
      put 0 0x0A#8 ||| put 8 d ||| put 13 a ||| put 18 b ||| putBit 23 c ||| put 24 s ||| putBit 29 p
  | .and d a b c s p i =>
      put 0 0x0B#8 ||| put 8 d ||| put 13 a ||| put 18 b ||| putBit 23 c ||| put 24 s ||| putBit 29 p ||| put 30 i
  | .or d a b c s p i =>
      put 0 0x0C#8 ||| put 8 d ||| put 13 a ||| put 18 b ||| putBit 23 c ||| put 24 s ||| putBit 29 p ||| put 30 i
  | .xor d a b c s p i =>
      put 0 0x0D#8 ||| put 8 d ||| put 13 a ||| put 18 b ||| putBit 23 c ||| put 24 s ||| putBit 29 p ||| put 30 i
  | .fsl d v q c x wr r =>
      put 0 0x0E#8 ||| put 8 d ||| put 13 v ||| put 18 q ||| putBit 23 c ||| putBit 24 x ||| putBit 26 wr ||| put 27 r
  | .fsr d v q c x wr r =>
      put 0 0x0F#8 ||| put 8 d ||| put 13 v ||| put 18 q ||| putBit 23 c ||| putBit 24 x ||| putBit 26 wr ||| put 27 r
  | .jmp c l o => put 0 0x10#8 ||| put 8 (condToBits c) ||| put 12 l ||| put 17 o
  | .jmpr c l r => put 0 0x11#8 ||| put 8 (condToBits c) ||| put 12 l ||| put 17 r
  | .portIn d p n => put 0 0x14#8 ||| put 8 d ||| put 13 p ||| put 27 n
  | .portOut s p n => put 0 0x15#8 ||| put 8 s ||| put 13 p ||| put 27 n
  | .ldflags d => put 0 0x18#8 ||| put 8 d
  | .stflags s => put 0 0x19#8 ||| put 8 s
  | .xvp => put 0 0x1A#8
  | .xchg a b l c => put 0 0x1C#8 ||| put 8 a ||| put 13 b ||| putBit 20 l ||| put 21 (condToBits c)
  | .ext d s x n => put 0 0x1D#8 ||| put 8 d ||| put 13 s ||| putBit 18 (extKindToBit x) ||| put 27 n
  | .cpi0 f p => put 0 0x20#8 ||| put 8 f ||| put 12 p
  | .cpi1 f p => put 0 0x21#8 ||| put 8 f ||| put 12 p
  | .cpi2 f p => put 0 0x22#8 ||| put 8 f ||| put 12 p
  | .cpi3 f p => put 0 0x23#8 ||| put 8 f ||| put 12 p
  | .cpi4 f p => put 0 0x24#8 ||| put 8 f ||| put 12 p
  | .cpi5 f p => put 0 0x25#8 ||| put 8 f ||| put 12 p
  | .cpi6 f p => put 0 0x26#8 ||| put 8 f ||| put 12 p
  | .cpi7 f p => put 0 0x27#8 ||| put 8 f ||| put 12 p
  | .ncpi0 f p => put 0 0x28#8 ||| put 8 f ||| put 12 p
  | .ncpi1 f p => put 0 0x29#8 ||| put 8 f ||| put 12 p
  | .ncpi2 f p => put 0 0x2A#8 ||| put 8 f ||| put 12 p
  | .ncpi3 f p => put 0 0x2B#8 ||| put 8 f ||| put 12 p
  | .ncpi4 f p => put 0 0x2C#8 ||| put 8 f ||| put 12 p
  | .ncpi5 f p => put 0 0x2D#8 ||| put 8 f ||| put 12 p
  | .ncpi6 f p => put 0 0x2E#8 ||| put 8 f ||| put 12 p
  | .ncpi7 f p => put 0 0x2F#8 ||| put 8 f ||| put 12 p
  | .cpi0ef f p => put 0 0x30#8 ||| put 8 f ||| put 14 p
  | .cpi1ef f p => put 0 0x31#8 ||| put 8 f ||| put 14 p
  | .cpi2ef f p => put 0 0x32#8 ||| put 8 f ||| put 14 p
  | .cpi3ef f p => put 0 0x33#8 ||| put 8 f ||| put 14 p
  | .cpi4ef f p => put 0 0x34#8 ||| put 8 f ||| put 14 p
  | .cpi5ef f p => put 0 0x35#8 ||| put 8 f ||| put 14 p
  | .cpi6ef f p => put 0 0x36#8 ||| put 8 f ||| put 14 p
  | .cpi7ef f p => put 0 0x37#8 ||| put 8 f ||| put 14 p
  | .ncpi0ef f p => put 0 0x38#8 ||| put 8 f ||| put 14 p
  | .ncpi1ef f p => put 0 0x39#8 ||| put 8 f ||| put 14 p
  | .ncpi2ef f p => put 0 0x3A#8 ||| put 8 f ||| put 14 p
  | .ncpi3ef f p => put 0 0x3B#8 ||| put 8 f ||| put 14 p
  | .ncpi4ef f p => put 0 0x3C#8 ||| put 8 f ||| put 14 p
  | .ncpi5ef f p => put 0 0x3D#8 ||| put 8 f ||| put 14 p
  | .ncpi6ef f p => put 0 0x3E#8 ||| put 8 f ||| put 14 p
  | .ncpi7ef f p => put 0 0x3F#8 ||| put 8 f ||| put 14 p
  | .halt => put 0 0x40#8
  | .stop => put 0 0x41#8
  | .undFF payload => put 0 0xFF#8 ||| put 8 payload

/-- The word of four bytes, the lowest address first (20_memory.md R71). -/
def wordOfBytes (b0 b1 b2 b3 : Byte) : Word := b3 ++ b2 ++ b1 ++ b0

/-- The four bytes of a word, the lowest address first (R71, R101). -/
def bytesOfWord (w : Word) : List Byte := [field w 0 8, field w 8 8, field w 16 8, field w 24 8]

/-- The instruction at the head of a list of bytes, and the rest of the list. -/
def decodeBytes : List Byte → Except DecodeError (Instr × List Byte)
  | b0 :: b1 :: b2 :: b3 :: rest => (decode (wordOfBytes b0 b1 b2 b3)).map (fun i => (i, rest))
  | _ => .error .truncated

/-- The instruction decoded from the bits `w` of a row of the opcode table that gives it `nbits` bits;
every bit above them is 0. -/
def decodeTableWord (nbits w : Nat) : Option Instr :=
  match decodeBytes (bytesOfWord (BitVec.ofNat 32 (w % 2 ^ nbits))) with
  | .ok (i, _) => some i
  | .error _ => none

end Sys2Proof
end

