-- ==== Sys2Proof/Machine/Ops.lean ====
section
/-! DEFINITION. The named operations over memory, registers, the bus, the ports and the coprocessors; taking an
exception, an event and a reset, once for all instructions. -/

namespace Sys2Proof.Machine

/-! ### Memory (20_memory.md R70 to R79) -/

/-- What an address that memory does not list reads as. DESIGN CHOICE, unsafe (log 3): the spec gives memory no
initial content. -/
def unlistedByte : Byte := 0#8

/-- The byte at an address. -/
def Memory.read : Memory → Nat → Byte
  | [], _ => unlistedByte
  | (k, b) :: rest, a => if k = a then b else Memory.read rest a

/-- Memory with a cell put before the first higher address. -/
def Memory.insert : Memory → Nat → Byte → Memory
  | [], a, b => [(a, b)]
  | (k, c) :: rest, a, b => if a < k then (a, b) :: (k, c) :: rest else (k, c) :: Memory.insert rest a b

/-- Memory after the byte at an address is set; a byte equal to `unlistedByte` is not listed. -/
def Memory.write (mem : Memory) (a : Nat) (b : Byte) : Memory :=
  let others := mem.filter (fun cell => cell.1 != a)
  if b = unlistedByte then others else Memory.insert others a b

/-- The canonical form: addresses below 2^32, strictly rising, and no entry that an unlisted address equals. -/
def Memory.wf : Memory → Bool
  | [] => true
  | (a, b) :: rest =>
    decide (a < 2 ^ 32) && b != unlistedByte && rest.all (fun cell => decide (a < cell.1)) && Memory.wf rest

/-- The number of bytes of an access (42_load_store.md R155). -/
def widthBytes : Width → Nat
  | .byte => 1
  | .half => 2
  | .word => 4

/-- The number of bytes of an access as a word. -/
def widthWord (w : Width) : Word := BitVec.ofNat 32 (widthBytes w)

/-- `MemRead` of R74 where the bus answers, zero-extended to 32 bits: byte `i` of the value is the byte at
`addr + i` (R71). -/
def memRead (mem : Memory) (addr : Word) : Width → Word
  | .byte => (mem.read addr.toNat).setWidth 32
  | .half => (mem.read (addr + 1#32).toNat ++ mem.read addr.toNat).setWidth 32
  | .word => wordOfBytes (mem.read addr.toNat) (mem.read (addr + 1#32).toNat) (mem.read (addr + 2#32).toNat)
      (mem.read (addr + 3#32).toNat)

/-- `MemWrite` of R75 where the bus answers: byte `i` of `v` goes to `addr + i`. -/
def memWrite (mem : Memory) (addr : Word) (w : Width) (v : Word) : Memory :=
  match w with
  | .byte => mem.write addr.toNat (field v 0 8)
  | .half => (mem.write addr.toNat (field v 0 8)).write (addr + 1#32).toNat (field v 8 8)
  | .word =>
    (((mem.write addr.toNat (field v 0 8)).write (addr + 1#32).toNat (field v 8 8)).write
      (addr + 2#32).toNat (field v 16 8)).write (addr + 3#32).toNat (field v 24 8)

/-- The address is a multiple of the width (R73): `addr & (width - 1)` is 0. -/
def aligned (addr : Word) (w : Width) : Bool := addr &&& (widthWord w - 1#32) == 0#32

/-- The parameter predicate BusOK (R76): no hole of the platform covers the access. -/
def State.busOK (s : State) (addr : Word) (w : Width) (kind : AccessKind) : Bool :=
  !s.plat.busHoles.any (fun h => h.kind == kind && h.width == w &&
    decide (h.first.toNat ≤ addr.toNat) && decide (addr.toNat ≤ h.last.toNat))

/-! ### Registers, flags and the pc (10_state.md R22 to R25) -/

/-- `x[r]`: r0 reads 0 (R22). -/
def State.readReg (s : State) (r : RegNum) : Word :=
  if r = 0#5 then 0#32 else s.regs.get r.toFin

/-- `x[r] <- v`: a write to r0 is ignored (R22). -/
def State.writeReg (s : State) (r : RegNum) (v : Word) : State :=
  if r = 0#5 then s else { s with regs := s.regs.set r.toNat v r.isLt }

/-- `next_pc` (R23). -/
def State.nextPc (s : State) : Word := s.pc + 4#32

/-- `pc <- next_pc` (R24). -/
def State.advance (s : State) : State := { s with pc := s.nextPc }

/-- The flags as a number, `c + 2v + 4n + 8z + 16p` (R25). -/
def Flags.toBits (f : Flags) : BitVec 5 :=
  BitVec.ofBool f.p ++ BitVec.ofBool f.z ++ BitVec.ofBool f.n ++ BitVec.ofBool f.v ++ BitVec.ofBool f.c

/-- The flags of a number (R25). -/
def flagsOfBits (b : BitVec 5) : Flags where
  c := b.getLsbD 0
  v := b.getLsbD 1
  n := b.getLsbD 2
  z := b.getLsbD 3
  p := b.getLsbD 4

/-! ### Ports and coprocessors (46_io_transfer.md R220, 48_coprocessor.md R250) -/

/-- The call is recorded. -/
def State.record (s : State) (call : EnvCall) : State := { s with log := call :: s.log }

/-- The low `n` bits of a word. -/
def lowBits (v : Word) (n : BitVec 5) : Word := v &&& ((1#32 <<< n.toNat) - 1#32)

/-- The bits the environment gives for a read of `n` bits of port `p`: the next of the given answers, or a free
value (log 7); of either, the low `n` bits. -/
def State.portBits (s : State) (p : BitVec 8) (n : BitVec 5) : Word :=
  lowBits (s.portAnswers.headD (Config.portBits s.log p n)) n

/-- `Port.read(p, n)` (R220): the state after the call; the bits are `State.portBits`. -/
def State.portRead (s : State) (p : BitVec 8) (n : BitVec 5) : State :=
  { s with portAnswers := s.portAnswers.tail }.record (.portRead p n (s.portBits p n))

/-- `Port.write(p, n, bits)` (R220). -/
def State.portWrite (s : State) (p : BitVec 8) (n : BitVec 5) (bits : Word) : State :=
  s.record (.portWrite p n bits)

/-- The value a coprocessor gives for register `k` of map `m`: the next of the given answers, or a free value
(log 8). -/
def State.cpValue (s : State) (m : BitVec 4) (k : RegNum) : Word :=
  s.cpAnswers.headD (Config.cpValue s.log m k)

/-- A read of a coprocessor's register `k` of map `m`: the state after it; the value is `State.cpValue`. -/
def State.cpRead (s : State) (m : BitVec 4) (k : RegNum) : State :=
  { s with cpAnswers := s.cpAnswers.tail }.record (.cpRead m k (s.cpValue m k))

/-- A write of a coprocessor's register. -/
def State.cpWrite (s : State) (m : BitVec 4) (k : RegNum) (v : Word) : State :=
  s.record (.cpWrite m k v)

/-- `Coproc.execute(cp, ef, f, p)` (R250). -/
def State.cpExecute (s : State) (cp : BitVec 3) (fn : CpFunction) : State := s.record (.cpExecute cp fn)

/-- `Coproc.wait(cp)` (R250): it returns at once. -/
def State.cpWait (s : State) (cp : BitVec 3) : State := s.record (.cpWait cp)

/-- Whether coprocessor `cp` reports an error: the next of the given answers, or a free value (log 8). -/
def State.cpError (s : State) (cp : BitVec 3) : Bool :=
  s.cpErrors.headD (Config.cpReportsError s.log cp)

/-- `Coproc.pull_exception(cp)` (R250): the state after it; the answer is `State.cpError`. -/
def State.cpPull (s : State) (cp : BitVec 3) : State :=
  { s with cpErrors := s.cpErrors.tail }.record (.cpPull cp (s.cpError cp))

/-! ### Reset (70_reset_and_hazards.md R400) -/

/-- RESET. The registers the spec leaves undefined hold free values (log 2); `inttab` has its bits 2:0 zero.
Memory, the platform and the environment are untouched; that `cpe` becomes 0 is no call to a coprocessor (log 35). -/
def State.enterReset (s : State) : State :=
  { s with
    status := .executing
    pc := 0x0000FF00#32
    cpe := 0#8
    mask := 0#2
    abort := false
    irqBuffer := []
    regs := Vector.ofFn (fun k => Config.resetWord s.resets 0#4 (BitVec.ofFin k))
    flags := flagsOfBits (Config.resetFlags s.resets)
    intret1 := Config.resetWord s.resets 1#4 1#5
    intret2 := Config.resetWord s.resets 1#4 2#5
    intret3 := Config.resetWord s.resets 1#4 3#5
    ints := Vector.ofFn (fun k => Config.resetWord s.resets 1#4 (BitVec.ofNat 5 (4 + k.val)))
    intd := Vector.ofFn (fun k => Config.resetWord s.resets 1#4 (BitVec.ofNat 5 (8 + k.val)))
    inttab := (Config.resetWord s.resets 1#4 31#5).extractLsb' 3 29
    io := Vector.ofFn (fun k => Config.resetWord s.resets 2#4 (BitVec.ofFin k))
    resets := s.resets + 1 }

/-! ### Taking an exception or an event (60_exceptions.md R300 to R334) -/

/-- The number of an exception, which is also its entry in the interrupt table (R300). -/
def excNumber : SyncExc → BitVec 6
  | .busFault => 1
  | .invalidInstruction => 2
  | .unalignedBranch => 3
  | .consistency => 4

/-- The entry of an asynchronous event (R300). -/
def eventNumber : Event → BitVec 6
  | .nmi => 7
  | .unitError cp => 8 + cp.setWidth 6
  | .irq v => 32 + BitVec.ofNat 6 v.val

/-- The priority of an asynchronous event (R301). -/
def eventPriority : Event → Nat
  | .nmi => 2
  | .unitError _ => 2
  | .irq _ => 3

/-- An event of priority `p` is blocked: `p > intctl.m` (R302). -/
def State.blocks (s : State) (p : Nat) : Bool := decide (s.mask.toNat < p)

/-- The value of `inttab`, the address of the interrupt table (10_state.md R37). -/
def State.inttabWord (s : State) : Word := s.inttab ++ 0#3

/-- Reading and checking entry `n` of the interrupt table (R305, R334): the handler's address, or the exception
that an entry that cannot be read (EX[1]) or is invalid (EX[4]) raises. -/
def State.tableEntry (s : State) (n : BitVec 6) : Except SyncExc Word :=
  let base := s.inttabWord + 8#32 * n.setWidth 32
  if !s.busOK base .word .read then .error .busFault
  else if !s.busOK (base + 4#32) .word .read then .error .busFault
  else
    let e0 := memRead s.mem base .word
    let e1 := memRead s.mem (base + 4#32) .word
    if !e0.getLsbD 0 || e0.getLsbD 1 || e1 != 0#32 then .error .consistency
    else .ok (e0 &&& 0xFFFFFFFC#32)

/-- `Abort()` (R333): delivery of EX[0], with no return address. A table entry that fails finds `m = 0` and
`a = 1`, which is RESET (R311). -/
def State.enterAbort (s : State) : State :=
  let s := { s with abort := true, mask := 0#2, status := .executing }
  match s.tableEntry 0 with
  | .ok handler => { s with pc := handler }
  | .error _ => s.enterReset

/-- A blocked synchronous exception (R311): RESET where `intctl.a = 1`, else the abort. -/
def State.blockedException (s : State) : State :=
  if s.abort then s.enterReset else s.enterAbort

/-- `reg[1][P] <- ret` for P = 1, 2, 3 (R332). -/
def State.saveReturn (s : State) (p : Nat) (ret : Word) : State :=
  match p with
  | 1 => { s with intret1 := ret }
  | 2 => { s with intret2 := ret }
  | 3 => { s with intret3 := ret }
  | _ => s

/-- `Deliver(n, P, ret)` (R332), the one way into a handler. `badEntry` is what a table entry that fails does in
the state that entry has set. -/
def State.deliver (s : State) (n : BitVec 6) (p : Nat) (ret : Word) (badEntry : SyncExc → State → State) : State :=
  if s.blocks p then s.blockedException
  else
    let s := { s.saveReturn p ret with mask := BitVec.ofNat 2 (p - 1), status := .executing }
    match s.tableEntry n with
    | .ok handler => { s with pc := handler }
    | .error e => badEntry e s

/-- `Deliver` of a synchronous exception, priority 1. A table entry that fails raises an exception again; entry has
set `m = 0`, so that one is blocked whichever it is (R334). -/
def State.deliverException (s : State) (e : SyncExc) (ret : Word) : State :=
  s.deliver (excNumber e) 1 ret (fun _ s' => s'.blockedException)

/-- `Deliver` of an asynchronous event. A table entry that fails raises EX[1] or EX[4] with the same return
address (R334). -/
def State.deliverEvent (s : State) (e : Event) (ret : Word) : State :=
  s.deliver (eventNumber e) (eventPriority e) ret (fun bad s' => s'.deliverException bad ret)

/-- The return address of a synchronous exception: the parameter EXC_RETURN_ADDR (R331). -/
def State.excReturnAddress (s : State) : Word :=
  match s.plat.excReturn with
  | .faulting => s.pc
  | .next => s.nextPc

/-- `raise EX[n]` (R330): the instruction at the pc has no effect of its own and the exception is delivered. -/
def State.raise (s : State) (e : SyncExc) : State := s.deliverException e s.excReturnAddress

/-- A priority-2 event: delivered where priority 2 is open, discarded where it is blocked (R312, R320). -/
def State.offerEvent (s : State) (e : Event) : State :=
  if s.blocks (eventPriority e) then s else s.deliverEvent e s.pc

/-- An IRQ that arrives (R313, R320): delivered where priority 3 is open and no older IRQ waits, else buffered
where there is room, else discarded. -/
def State.offerIrq (s : State) (v : IrqNum) : State :=
  if !s.blocks 3 && s.irqBuffer.isEmpty then s.deliverEvent (.irq v) s.pc
  else if s.irqBuffer.length < s.plat.irqCapacity then { s with irqBuffer := s.irqBuffer ++ [v] }
  else s

/-- `step(Event(n))` (R320). A stopped CPU takes no event (49_halt_stop.md R266). -/
def State.acceptEvent (s : State) (e : Event) : State :=
  if s.status = .stopped then s
  else
    match e with
    | .irq v => s.offerIrq v
    | .nmi => s.offerEvent .nmi
    | .unitError cp => s.offerEvent (.unitError cp)

/-- The event that a platform's IRQ source raises: the parameter IRQ_VECTOR (R321). -/
def irqOfSource (p : Platform) (source : Nat) : Option Event := (p.irqVector[source]?).map .irq

end Sys2Proof.Machine
end

