-- ==== Sys2Proof/Machine/Operands.lean ====
section
/-! DEFINITION. The operand forms: immediates, the shifted and inverted operands of the ALU, the funnel shifts,
the address forms of ST and LD, the shift through a transfer register, the extension of EXT. -/

namespace Sys2Proof.Machine

/-- A 16-bit immediate, sign-extended where `signed` is 1 and zero-extended otherwise (42_load_store.md R152, R153). -/
def extendImm (signed : Bool) (i : BitVec 16) : Word := if signed then i.signExtend 32 else i.setWidth 32

/-- The immediate of ADDI (43_arithmetic_logic.md R170): the high half where `h` is 1, whatever `s` is. -/
def addiImm (s h : Bool) (i : BitVec 16) : Word := if h then i ++ 0#16 else extendImm s i

/-- Operand 1 of the ALU instructions: `x[a]`, shifted left where the polarity is 1 (R171). -/
def State.aluOperand1 (st : State) (a : RegNum) (s : BitVec 5) (p : Bool) : Word :=
  if p then st.readReg a <<< s.toNat else st.readReg a

/-- Operand 2 of the ALU instructions: `x[b]`, shifted left where the polarity is 0 (R171). -/
def State.aluOperand2 (st : State) (b : RegNum) (s : BitVec 5) (p : Bool) : Word :=
  if p then st.readReg b else st.readReg b <<< s.toNat

/-- An operand of a logic instruction, inverted after the shift (R174). -/
def invertIf (inv : Bool) (v : Word) : Word := if inv then ~~~v else v

/-- The amount of a funnel shift: the whole register, reduced modulo 32 where `wr` is 1 (44_funnel_shift.md R191). -/
def State.funnelAmount (s : State) (q : RegNum) (wr : Bool) : Nat :=
  if wr then (s.readReg q).toNat % 32 else (s.readReg q).toNat

/-- The remainder of a funnel shift, inverted where `x` is 1 and the value is negative (R191). -/
def State.funnelRemainder (s : State) (v r : RegNum) (x : Bool) : Word :=
  if x && (s.readReg v).msb then ~~~s.readReg r else s.readReg r

/-- `ShiftInLeft` (R192). -/
def shiftInLeft (val rem : Word) (n : Nat) : Word :=
  if n = 0 then val
  else if 32 ≤ n then rem
  else val <<< n ||| rem >>> (32 - n)

/-- `ShiftInRight` (R192): the high bits of the remainder, in place. -/
def shiftInRight (val rem : Word) (n : Nat) : Word :=
  if n = 0 then val
  else if 32 ≤ n then rem
  else val >>> n ||| rem &&& ~~~(0xFFFFFFFF#32 >>> n)

/-- The width of an access, where the width field is legal (42_load_store.md R155). -/
def legalWidth : WidthField → Option Width
  | .byte => some .byte
  | .half => some .half
  | .word => some .word
  | .eight => none

/-- The address of ST and LD from the value of the base register (R154). -/
def accessAddress (base : Word) (w : Width) (m : UpdateMode) : Word :=
  match m with
  | .preDec => base - widthWord w
  | .none | .postInc | .illegal => base

/-- The base register's update, after the access (R154). -/
def State.updateBase (s : State) (r : RegNum) (addr : Word) (w : Width) (m : UpdateMode) : State :=
  match m with
  | .postInc => s.writeReg r (addr + widthWord w)
  | .preDec => s.writeReg r addr
  | .none | .illegal => s

/-- The register after `ShiftRightInOut(regval, inbits, n)` (46_io_transfer.md R223). -/
def shiftThrough (regval inbits : Word) (n : BitVec 5) : Word :=
  if n = 0#5 then regval else regval >>> n.toNat ||| inbits <<< (32 - n.toNat)

/-- The bits `ShiftRightInOut` gives out, the low `n` of the register (R223). -/
def bitsOut (regval : Word) (n : BitVec 5) : Word := lowBits regval n

/-- The result of EXT: the low `n` bits, extended (47_flags_xchg_ext.md R234); 0 for `n = 0`. -/
def extendLow (v : Word) (n : BitVec 5) (x : ExtKind) : Word :=
  match x with
  | .zero => lowBits v n
  | .sign =>
    if n = 0#5 then 0#32
    else if v.getLsbD (n.toNat - 1) then lowBits v n ||| (0xFFFFFFFF#32 <<< n.toNat)
    else lowBits v n

/-- The displacement of JMP in bytes (45_branch.md R203). -/
def jumpDisplacement (o : BitVec 15) : Word := o.signExtend 32 <<< 2

end Sys2Proof.Machine
end

