-- ==== Sys2Proof/Machine/Arith.lean ====
section
/-! DEFINITION. ADDI, ADD, SUB, AND, OR, XOR (43_arithmetic_logic.md R170 to R180). -/

namespace Sys2Proof.Machine

/-- The end of an arithmetic or logic instruction: the flags, unless suppressed, the destination, the pc (R179). -/
def State.finishAlu (st : State) (d : RegNum) (r : Word) (suppress : Bool) (new : Flags) : State :=
  ({ st with flags := unlessSuppressed suppress st.flags new }.writeReg d r).advance

/-- ADDI (R170). -/
def execAddi (d : RegNum) (s c h : Bool) (i : BitVec 16) (st : State) : Host.Outcome State Fault Refusal :=
  let a := st.readReg d
  let b := addiImm s h i
  .next (st.finishAlu d (a + b) c (addFlags a b st.flags))

/-- ADD (R172). -/
def execAdd (d a b : RegNum) (c : Bool) (s : BitVec 5) (p : Bool) (st : State) : Host.Outcome State Fault Refusal :=
  let src1 := st.aluOperand1 a s p
  let src2 := st.aluOperand2 b s p
  .next (st.finishAlu d (src1 + src2) c (addFlags src1 src2 st.flags))

/-- SUB (R173). -/
def execSub (d a b : RegNum) (c : Bool) (s : BitVec 5) (p : Bool) (st : State) : Host.Outcome State Fault Refusal :=
  let src1 := st.aluOperand1 a s p
  let src2 := st.aluOperand2 b s p
  .next (st.finishAlu d (src1 - src2) c (subFlags src1 src2 st.flags))

/-- The shared shape of AND, OR and XOR: the operands of R171, inverted as `i` says, one operation (R174). -/
def State.logic (st : State) (op : Word → Word → Word) (d a b : RegNum) (c : Bool) (s : BitVec 5) (p : Bool)
    (i : BitVec 2) : State :=
  let r := op (invertIf (i.getLsbD 0) (st.aluOperand1 a s p)) (invertIf (i.getLsbD 1) (st.aluOperand2 b s p))
  st.finishAlu d r c (logicFlags r st.flags)

/-- AND (R174). -/
def execAnd (d a b : RegNum) (c : Bool) (s : BitVec 5) (p : Bool) (i : BitVec 2) (st : State) :
    Host.Outcome State Fault Refusal :=
  .next (st.logic (fun x y => x &&& y) d a b c s p i)

/-- OR (R175). -/
def execOr (d a b : RegNum) (c : Bool) (s : BitVec 5) (p : Bool) (i : BitVec 2) (st : State) :
    Host.Outcome State Fault Refusal :=
  .next (st.logic (fun x y => x ||| y) d a b c s p i)

/-- XOR (R176). -/
def execXor (d a b : RegNum) (c : Bool) (s : BitVec 5) (p : Bool) (i : BitVec 2) (st : State) :
    Host.Outcome State Fault Refusal :=
  .next (st.logic (fun x y => x ^^^ y) d a b c s p i)

end Sys2Proof.Machine
end

