-- ==== Sys2Proof/Machine/Branch.lean ====
section
/-! DEFINITION. JMP and JMPR (45_branch.md R203, R204). -/

namespace Sys2Proof.Machine

/-- A jump: where the condition holds, the link register gets `next_pc` and the pc the target; `l = 0` is no link,
which is what a write to r0 is. -/
def State.jump (s : State) (c : Cond) (l : RegNum) (target : Word) : State :=
  if checkCondition s.flags c then { s.writeReg l s.nextPc with pc := target } else s.advance

/-- JMP (R203). -/
def execJmp (c : Cond) (l : RegNum) (o : BitVec 15) (s : State) : Host.Outcome State Fault Refusal :=
  .next (s.jump c l (s.nextPc + jumpDisplacement o))

/-- JMPR (R204): the alignment check comes before the condition, the target is read before the link is written. -/
def execJmpr (c : Cond) (l r : RegNum) (s : State) : Host.Outcome State Fault Refusal :=
  let addr := s.readReg r
  .next (if !aligned addr .word then s.raise .unalignedBranch else s.jump c l addr)

end Sys2Proof.Machine
end

