-- ==== Sys2Proof/Machine/Control.lean ====
section
/-! DEFINITION. UND, PAUSE (40_und_pause.md), HALT and STOP (49_halt_stop.md). -/

namespace Sys2Proof.Machine

/-- UND, opcode 0x00 (R130). -/
def execUnd00 (_payload : BitVec 24) (s : State) : Host.Outcome State Fault Refusal :=
  .next (s.raise .invalidInstruction)

/-- UND, opcode 0xFF (R130). -/
def execUndFF (_payload : BitVec 24) (s : State) : Host.Outcome State Fault Refusal :=
  .next (s.raise .invalidInstruction)

/-- PAUSE (R131, R132): the model has no clock. -/
def execPause (_k : BitVec 6) (s : State) : Host.Outcome State Fault Refusal := .next s.advance

/-- HALT (R265): the wait is what `tick` does while Status is 2 (R267). -/
def execHalt (s : State) : Host.Outcome State Fault Refusal := .next { s.advance with status := .halted }

/-- STOP (R266). -/
def execStop (s : State) : Host.Outcome State Fault Refusal := .next { s.advance with status := .stopped }

end Sys2Proof.Machine
end

