-- ==== Sys2Proof/Machine/SysRegs.lean ====
section
/-! DEFINITION. The registers of maps 1 to 15 (10_state.md R28 to R51): which exist, what MOV may read and write,
which values a write accepts, and what a read gives and a write does. -/

namespace Sys2Proof.Machine

/-- A system register, named. -/
inductive SysReg where
  /-- Map 1 register 0 (R30). -/
  | intctl
  /-- Map 1 register 1 (R34). -/
  | intret1
  /-- Map 1 register 2 (R34). -/
  | intret2
  /-- Map 1 register 3 (R34). -/
  | intret3
  /-- Map 1 registers 4 to 7 (R35). -/
  | ints (k : Fin 4)
  /-- Map 1 registers 8 to 11 (R36). -/
  | intd (k : Fin 4)
  /-- Map 1 register 31 (R37). -/
  | inttab
  /-- Map 2 (R39). -/
  | io (k : RegNum)
  /-- Map 3 (R40). -/
  | info (k : RegNum)
  /-- Map 4 registers 0 to 7, the control word of a coprocessor (R42). -/
  | cpControl (n : BitVec 3)
  /-- Map 4 register 30 (R44). -/
  | cpe
  /-- Map 4 register 31 (R47). -/
  | cpp
  /-- Register `k` of map `8 + n` (R49). -/
  | cpReg (n : BitVec 3) (k : RegNum)
  deriving DecidableEq, Repr

/-- The register of map 1 with a number; numbers 12 to 30 are undefined (R28, R29). -/
def map1Register (k : RegNum) : Option SysReg :=
  match k.toNat with
  | 0 => some .intctl
  | 1 => some .intret1
  | 2 => some .intret2
  | 3 => some .intret3
  | 4 => some (.ints 0)
  | 5 => some (.ints 1)
  | 6 => some (.ints 2)
  | 7 => some (.ints 3)
  | 8 => some (.intd 0)
  | 9 => some (.intd 1)
  | 10 => some (.intd 2)
  | 11 => some (.intd 3)
  | 31 => some .inttab
  | _ => none

/-- The register of map 4 with a number; numbers 8 to 29 are undefined (R41, R43). -/
def map4Register (k : RegNum) : Option SysReg :=
  if k.toNat < 8 then some (.cpControl (k.setWidth 3))
  else if k = 30#5 then some .cpe
  else if k = 31#5 then some .cpp
  else none

/-- The register `k` of map `m`, `m` from 1 to 15; maps 5, 6 and 7 have none (R20, R48). Map 0 is not a system
map and has none here. -/
def sysRegister (m : BitVec 4) (k : RegNum) : Option SysReg :=
  match m.toNat with
  | 0 => none
  | 1 => map1Register k
  | 2 => some (.io k)
  | 3 => some (.info k)
  | 4 => map4Register k
  | 5 => none
  | 6 => none
  | 7 => none
  | _ => some (.cpReg (m.setWidth 3) k)

/-- `IsCoprocessorEnabled(n)`: `cpe[n] = 1` (R46). -/
def State.cpEnabled (s : State) (n : BitVec 3) : Bool := s.cpe.getLsbD n.toNat

/-- Coprocessor `n` is present: `cpp[n] = 1` (R42, R47). -/
def State.cpPresent (s : State) (n : BitVec 3) : Bool := s.plat.cpPresent.getLsbD n.toNat

/-- The register is accessible now (R50). -/
def State.sysAccessible (s : State) : SysReg → Bool
  | .cpControl n => s.cpPresent n && s.cpEnabled n
  | .cpReg n k => s.cpEnabled n && s.plat.cpRegs.contains (n, k)
  | .intctl | .intret1 | .intret2 | .intret3 | .ints _ | .intd _ | .inttab | .io _ | .info _ | .cpe | .cpp => true

/-- The register is not one of the read-only ones, map 3 and `cpp` (R40, R47). -/
def sysRegWritable : SysReg → Bool
  | .info _ | .cpp => false
  | .intctl | .intret1 | .intret2 | .intret3 | .ints _ | .intd _ | .inttab | .io _ | .cpControl _ | .cpe
  | .cpReg _ _ => true

/-- `Readable(m, k)`, and the register it is (R50). -/
def State.readable (s : State) (m : BitVec 4) (k : RegNum) : Option SysReg :=
  match sysRegister m k with
  | none => none
  | some r => if s.sysAccessible r then some r else none

/-- `Writable(m, k)`, and the register it is (R50). -/
def State.writable (s : State) (m : BitVec 4) (k : RegNum) : Option SysReg :=
  match s.readable m k with
  | none => none
  | some r => if sysRegWritable r then some r else none

/-- The value is outside every illegal range of register `k` of map `m`: CP_VALUE_VALID (R51). -/
def State.cpValueValid (s : State) (m : BitVec 4) (k : RegNum) (v : Word) : Bool :=
  !s.plat.cpIllegal.any (fun r => r.map == m && r.reg == k &&
    decide (r.first.toNat ≤ v.toNat) && decide (v.toNat ≤ r.last.toNat))

/-- The map number of the registers of coprocessor `n`. -/
def cpMap (n : BitVec 3) : BitVec 4 := 8#4 + n.setWidth 4

/-- `ValidValue(m, k, v)` (R33, R38, R45, R51). -/
def State.validValue (s : State) (r : SysReg) (v : Word) : Bool :=
  match r with
  | .intctl => field v 2 29 == 0#29
  | .inttab => field v 0 3 == 0#3
  | .cpe => field v 8 24 == 0#24 && field v 0 8 &&& ~~~s.plat.cpPresent == 0#8
  | .cpControl n => s.cpValueValid 4#4 (n.setWidth 5) v
  | .cpReg n k => s.cpValueValid (cpMap n) k v
  | .intret1 | .intret2 | .intret3 | .ints _ | .intd _ | .io _ | .info _ | .cpp => true

/-- The value of `intctl`: `a ++ 0 (29 bits) ++ m` (R33). -/
def State.intctlWord (s : State) : Word := BitVec.ofBool s.abort ++ 0#29 ++ s.mask

/-- The value a read of the register gives. A coprocessor's register gives what the coprocessor answers
(R42, R49); map 3 gives 0 (R40). -/
def State.sysValue (s : State) : SysReg → Word
  | .intctl => s.intctlWord
  | .intret1 => s.intret1
  | .intret2 => s.intret2
  | .intret3 => s.intret3
  | .ints k => s.ints.get k
  | .intd k => s.intd.get k
  | .inttab => s.inttabWord
  | .io k => s.io.get k.toFin
  | .info _ => 0#32
  | .cpControl n => s.cpValue 4#4 (n.setWidth 5)
  | .cpe => s.cpe.setWidth 32
  | .cpp => s.plat.cpPresent.setWidth 32
  | .cpReg n k => s.cpValue (cpMap n) k

/-- The state after a read of the register: a coprocessor's register is read from the coprocessor, any other read
changes nothing. -/
def State.sysRead (s : State) : SysReg → State
  | .cpControl n => s.cpRead 4#4 (n.setWidth 5)
  | .cpReg n k => s.cpRead (cpMap n) k
  | .intctl | .intret1 | .intret2 | .intret3 | .ints _ | .intd _ | .inttab | .io _ | .info _ | .cpe | .cpp => s

/-- `reg[2][k] <- v` (R39). -/
def State.writeIo (s : State) (k : RegNum) (v : Word) : State :=
  { s with io := s.io.set k.toNat v k.isLt }

/-- `reg[m][k] <- v` of a value the register accepts. A coprocessor's register is written to the coprocessor
(R42, R49); the read-only registers are never written (R50). A write of `cpe` gates the CPU's access and is no call to
a coprocessor: what it does to the coprocessor's own state is not in the source (R46). DESIGN CHOICE (log 35). -/
def State.sysWrite (s : State) (r : SysReg) (v : Word) : State :=
  match r with
  | .intctl => { s with mask := field v 0 2, abort := bit v 31 }
  | .intret1 => { s with intret1 := v }
  | .intret2 => { s with intret2 := v }
  | .intret3 => { s with intret3 := v }
  | .ints k => { s with ints := s.ints.set k.val v k.isLt }
  | .intd k => { s with intd := s.intd.set k.val v k.isLt }
  | .inttab => { s with inttab := field v 3 29 }
  | .io k => s.writeIo k v
  | .cpControl n => s.cpWrite 4#4 (n.setWidth 5) v
  | .cpe => { s with cpe := field v 0 8 }
  | .cpReg n k => s.cpWrite (cpMap n) k v
  | .info _ => s
  | .cpp => s

end Sys2Proof.Machine
end

