-- ==== Sys2Proof/Machine/Coproc.lean ====
section
/-! DEFINITION. The coprocessor instructions (48_coprocessor.md R250 to R258): two shared operations, and one
meaning for each of the 32 opcodes. -/

namespace Sys2Proof.Machine

/-- The non-waiting form (R253, R255): the enabled check, then the function is handed to the coprocessor. -/
def State.invoke (s : State) (cp : BitVec 3) (fn : CpFunction) : State :=
  if s.cpEnabled cp then (s.cpExecute cp fn).advance else s.raise s.plat.cpiDisabledExc

/-- The waiting form (R252, R254, R258): the function, the wait, the pulled error. The instruction is complete
before the unit error is posted; a blocked unit error is discarded. -/
def State.invokeWaiting (s : State) (cp : BitVec 3) (fn : CpFunction) : State :=
  if s.cpEnabled cp then
    let waited := (s.cpExecute cp fn).cpWait cp
    let done := (waited.cpPull cp).advance
    if waited.cpError cp then done.offerEvent (.unitError cp) else done
  else s.raise s.plat.cpiDisabledExc

/-- CPI0 (R252). -/
def execCpi0 (f : BitVec 4) (p : BitVec 20) (s : State) : Host.Outcome State Fault Refusal :=
  .next (s.invokeWaiting 0#3 (.base f p))

/-- CPI1 (R252). -/
def execCpi1 (f : BitVec 4) (p : BitVec 20) (s : State) : Host.Outcome State Fault Refusal :=
  .next (s.invokeWaiting 1#3 (.base f p))

/-- CPI2 (R252). -/
def execCpi2 (f : BitVec 4) (p : BitVec 20) (s : State) : Host.Outcome State Fault Refusal :=
  .next (s.invokeWaiting 2#3 (.base f p))

/-- CPI3 (R252). -/
def execCpi3 (f : BitVec 4) (p : BitVec 20) (s : State) : Host.Outcome State Fault Refusal :=
  .next (s.invokeWaiting 3#3 (.base f p))

/-- CPI4 (R252). -/
def execCpi4 (f : BitVec 4) (p : BitVec 20) (s : State) : Host.Outcome State Fault Refusal :=
  .next (s.invokeWaiting 4#3 (.base f p))

/-- CPI5 (R252). -/
def execCpi5 (f : BitVec 4) (p : BitVec 20) (s : State) : Host.Outcome State Fault Refusal :=
  .next (s.invokeWaiting 5#3 (.base f p))

/-- CPI6 (R252). -/
def execCpi6 (f : BitVec 4) (p : BitVec 20) (s : State) : Host.Outcome State Fault Refusal :=
  .next (s.invokeWaiting 6#3 (.base f p))

/-- CPI7 (R252). -/
def execCpi7 (f : BitVec 4) (p : BitVec 20) (s : State) : Host.Outcome State Fault Refusal :=
  .next (s.invokeWaiting 7#3 (.base f p))

/-- NCPI0 (R253). -/
def execNcpi0 (f : BitVec 4) (p : BitVec 20) (s : State) : Host.Outcome State Fault Refusal :=
  .next (s.invoke 0#3 (.base f p))

/-- NCPI1 (R253). -/
def execNcpi1 (f : BitVec 4) (p : BitVec 20) (s : State) : Host.Outcome State Fault Refusal :=
  .next (s.invoke 1#3 (.base f p))

/-- NCPI2 (R253). -/
def execNcpi2 (f : BitVec 4) (p : BitVec 20) (s : State) : Host.Outcome State Fault Refusal :=
  .next (s.invoke 2#3 (.base f p))

/-- NCPI3 (R253). -/
def execNcpi3 (f : BitVec 4) (p : BitVec 20) (s : State) : Host.Outcome State Fault Refusal :=
  .next (s.invoke 3#3 (.base f p))

/-- NCPI4 (R253). -/
def execNcpi4 (f : BitVec 4) (p : BitVec 20) (s : State) : Host.Outcome State Fault Refusal :=
  .next (s.invoke 4#3 (.base f p))

/-- NCPI5 (R253). -/
def execNcpi5 (f : BitVec 4) (p : BitVec 20) (s : State) : Host.Outcome State Fault Refusal :=
  .next (s.invoke 5#3 (.base f p))

/-- NCPI6 (R253). -/
def execNcpi6 (f : BitVec 4) (p : BitVec 20) (s : State) : Host.Outcome State Fault Refusal :=
  .next (s.invoke 6#3 (.base f p))

/-- NCPI7 (R253). -/
def execNcpi7 (f : BitVec 4) (p : BitVec 20) (s : State) : Host.Outcome State Fault Refusal :=
  .next (s.invoke 7#3 (.base f p))

/-- CPI0EF (R254). -/
def execCpi0ef (f : BitVec 6) (p : BitVec 18) (s : State) : Host.Outcome State Fault Refusal :=
  .next (s.invokeWaiting 0#3 (.extended f p))

/-- CPI1EF (R254). -/
def execCpi1ef (f : BitVec 6) (p : BitVec 18) (s : State) : Host.Outcome State Fault Refusal :=
  .next (s.invokeWaiting 1#3 (.extended f p))

/-- CPI2EF (R254). -/
def execCpi2ef (f : BitVec 6) (p : BitVec 18) (s : State) : Host.Outcome State Fault Refusal :=
  .next (s.invokeWaiting 2#3 (.extended f p))

/-- CPI3EF (R254). -/
def execCpi3ef (f : BitVec 6) (p : BitVec 18) (s : State) : Host.Outcome State Fault Refusal :=
  .next (s.invokeWaiting 3#3 (.extended f p))

/-- CPI4EF (R254). -/
def execCpi4ef (f : BitVec 6) (p : BitVec 18) (s : State) : Host.Outcome State Fault Refusal :=
  .next (s.invokeWaiting 4#3 (.extended f p))

/-- CPI5EF (R254). -/
def execCpi5ef (f : BitVec 6) (p : BitVec 18) (s : State) : Host.Outcome State Fault Refusal :=
  .next (s.invokeWaiting 5#3 (.extended f p))

/-- CPI6EF (R254). -/
def execCpi6ef (f : BitVec 6) (p : BitVec 18) (s : State) : Host.Outcome State Fault Refusal :=
  .next (s.invokeWaiting 6#3 (.extended f p))

/-- CPI7EF (R254). -/
def execCpi7ef (f : BitVec 6) (p : BitVec 18) (s : State) : Host.Outcome State Fault Refusal :=
  .next (s.invokeWaiting 7#3 (.extended f p))

/-- NCPI0EF (R255). -/
def execNcpi0ef (f : BitVec 6) (p : BitVec 18) (s : State) : Host.Outcome State Fault Refusal :=
  .next (s.invoke 0#3 (.extended f p))

/-- NCPI1EF (R255). -/
def execNcpi1ef (f : BitVec 6) (p : BitVec 18) (s : State) : Host.Outcome State Fault Refusal :=
  .next (s.invoke 1#3 (.extended f p))

/-- NCPI2EF (R255). -/
def execNcpi2ef (f : BitVec 6) (p : BitVec 18) (s : State) : Host.Outcome State Fault Refusal :=
  .next (s.invoke 2#3 (.extended f p))

/-- NCPI3EF (R255). -/
def execNcpi3ef (f : BitVec 6) (p : BitVec 18) (s : State) : Host.Outcome State Fault Refusal :=
  .next (s.invoke 3#3 (.extended f p))

/-- NCPI4EF (R255). -/
def execNcpi4ef (f : BitVec 6) (p : BitVec 18) (s : State) : Host.Outcome State Fault Refusal :=
  .next (s.invoke 4#3 (.extended f p))

/-- NCPI5EF (R255). -/
def execNcpi5ef (f : BitVec 6) (p : BitVec 18) (s : State) : Host.Outcome State Fault Refusal :=
  .next (s.invoke 5#3 (.extended f p))

/-- NCPI6EF (R255). -/
def execNcpi6ef (f : BitVec 6) (p : BitVec 18) (s : State) : Host.Outcome State Fault Refusal :=
  .next (s.invoke 6#3 (.extended f p))

/-- NCPI7EF (R255). -/
def execNcpi7ef (f : BitVec 6) (p : BitVec 18) (s : State) : Host.Outcome State Fault Refusal :=
  .next (s.invoke 7#3 (.extended f p))

end Sys2Proof.Machine
end

