-- ==== Sys2Proof/Machine/FlagsXchg.lean ====
section
/-! DEFINITION. LDFLAGS, STFLAGS, XVP, XCHG, EXT (47_flags_xchg_ext.md R230 to R235). -/

namespace Sys2Proof.Machine

/-- LDFLAGS (R230). -/
def execLdflags (d : RegNum) (s : State) : Host.Outcome State Fault Refusal :=
  .next (s.writeReg d (s.flags.toBits.setWidth 32)).advance

/-- STFLAGS (R231). -/
def execStflags (r : RegNum) (s : State) : Host.Outcome State Fault Refusal :=
  .next { s.advance with flags := flagsOfBits (field (s.readReg r) 0 5) }

/-- XVP (R232). -/
def execXvp (s : State) : Host.Outcome State Fault Refusal :=
  .next { s.advance with flags := { s.flags with v := s.flags.p, p := s.flags.v } }

/-- XCHG (R233): both registers are read before either is written; the latency bit `l` has no effect. -/
def execXchg (a b : RegNum) (_l : Bool) (c : Cond) (s : State) : Host.Outcome State Fault Refusal :=
  .next (if checkCondition s.flags c then
      ((s.writeReg a (s.readReg b)).writeReg b (s.readReg a)).advance
    else s.advance)

/-- EXT (R234). -/
def execExt (d r : RegNum) (x : ExtKind) (n : BitVec 5) (s : State) : Host.Outcome State Fault Refusal :=
  .next (s.writeReg d (extendLow (s.readReg r) n x)).advance

end Sys2Proof.Machine
end

