-- ==== Sys2Proof/Machine/Funnel.lean ====
section
/-! DEFINITION. FSL and FSR (44_funnel_shift.md R190 to R196). They write no flag, whatever the bit `c` (R193). -/

namespace Sys2Proof.Machine

/-- FSL (R195). -/
def execFsl (d v q : RegNum) (_c x wr : Bool) (r : RegNum) (s : State) : Host.Outcome State Fault Refusal :=
  .next (s.writeReg d (shiftInLeft (s.readReg v) (s.funnelRemainder v r x) (s.funnelAmount q wr))).advance

/-- FSR (R196). -/
def execFsr (d v q : RegNum) (_c x wr : Bool) (r : RegNum) (s : State) : Host.Outcome State Fault Refusal :=
  .next (s.writeReg d (shiftInRight (s.readReg v) (s.funnelRemainder v r x) (s.funnelAmount q wr))).advance

end Sys2Proof.Machine
end

