-- ==== Sys2Proof/Machine/LoadStore.lean ====
section
/-! DEFINITION. ST, LD, LDI, LRA (42_load_store.md R150 to R155). -/

namespace Sys2Proof.Machine

/-- The checks ST and LD share, in their order, and what follows where they pass: update mode 2 and base register
r0 are illegal, width field 3 is illegal, the address must be a multiple of the width (R150, R151, R73), the bus
must answer (R76). -/
def State.withAccess (st : State) (base : RegNum) (wd : WidthField) (m : UpdateMode) (kind : AccessKind)
    (access : Width → Word → State) : State :=
  if m = .illegal then st.raise .invalidInstruction
  else if base = 0#5 then st.raise .invalidInstruction
  else
    match legalWidth wd with
    | none => st.raise .invalidInstruction
    | some w =>
      let addr := accessAddress (st.readReg base) w m
      if !aligned addr w then st.raise .busFault
      else if !st.busOK addr w kind then st.raise .busFault
      else access w addr

/-- ST (R150): the value is read before the base register is updated. -/
def execSt (d s : RegNum) (wd : WidthField) (m : UpdateMode) (st : State) : Host.Outcome State Fault Refusal :=
  .next (st.withAccess d wd m .write (fun w addr =>
    ({ st with mem := memWrite st.mem addr w (st.readReg s) }.updateBase d addr w m).advance))

/-- LD (R151): the destination is written first and the base register second. -/
def execLd (d s : RegNum) (wd : WidthField) (m : UpdateMode) (st : State) : Host.Outcome State Fault Refusal :=
  .next (st.withAccess s wd m .read (fun w addr =>
    ((st.writeReg d (memRead st.mem addr w)).updateBase s addr w m).advance))

/-- LDI (R152). -/
def execLdi (d : RegNum) (x : Bool) (i : BitVec 16) (s : State) : Host.Outcome State Fault Refusal :=
  .next (s.writeReg d (extendImm x i)).advance

/-- LRA (R153): the base is `next_pc`. -/
def execLra (d : RegNum) (x : Bool) (o : BitVec 16) (s : State) : Host.Outcome State Fault Refusal :=
  .next (s.writeReg d (s.nextPc + extendImm x o)).advance

end Sys2Proof.Machine
end

