-- ==== Sys2Proof/Machine/Move.lean ====
section
/-! DEFINITION. MOV (41_move.md R140 to R142). The latency bit `l` has no effect (R142). -/

namespace Sys2Proof.Machine

/-- MOV between general registers (`m = 0`). -/
def State.moveGeneral (st : State) (d s : RegNum) (c : Cond) : State :=
  if checkCondition st.flags c then (st.writeReg d (st.readReg s)).advance else st.advance

/-- MOV from register `s` of map `m`: the access check comes before the condition (R141). -/
def State.moveFromMap (st : State) (d s : RegNum) (c : Cond) (m : BitVec 4) : State :=
  match st.readable m s with
  | none => st.raise .invalidInstruction
  | some r =>
    if checkCondition st.flags c then ((st.sysRead r).writeReg d (st.sysValue r)).advance else st.advance

/-- MOV to register `d` of map `m`: the access check, the condition, then the value check (R140, R141). -/
def State.moveToMap (st : State) (d s : RegNum) (c : Cond) (m : BitVec 4) : State :=
  match st.writable m d with
  | none => st.raise .invalidInstruction
  | some r =>
    if checkCondition st.flags c then
      if st.validValue r (st.readReg s) then (st.sysWrite r (st.readReg s)).advance else st.raise .consistency
    else st.advance

/-- MOV (R140). -/
def execMov (d s : RegNum) (_l : Bool) (c : Cond) (dir : Direction) (m : BitVec 4) (st : State) :
    Host.Outcome State Fault Refusal :=
  .next (if m = 0#4 then st.moveGeneral d s c
    else match dir with
      | .fromMap => st.moveFromMap d s c m
      | .toMap => st.moveToMap d s c m)

end Sys2Proof.Machine
end

