-- ==== Sys2Proof/Machine/PortIo.lean ====
section
/-! DEFINITION. IN and OUT (46_io_transfer.md R220 to R223). -/

namespace Sys2Proof.Machine

/-- IN (R221): the call is made for a width of 0 too. -/
def execPortIn (d : RegNum) (p : BitVec 8) (n : BitVec 5) (s : State) : Host.Outcome State Fault Refusal :=
  .next ((s.portRead p n).writeIo d (shiftThrough (s.io.get d.toFin) (s.portBits p n) n)).advance

/-- OUT (R222): the register is updated, then the port is written. -/
def execPortOut (r : RegNum) (p : BitVec 8) (n : BitVec 5) (s : State) : Host.Outcome State Fault Refusal :=
  let regval := s.io.get r.toFin
  .next ((s.writeIo r (shiftThrough regval 0#32 n)).portWrite p n (bitsOut regval n)).advance

end Sys2Proof.Machine
end

