-- ==== Sys2Proof/Machine/Dispatch.lean ====
section
/-! DEFINITION. One arm per instruction, each one direct call of its meaning. -/

namespace Sys2Proof.Machine

def exec (i : Instr) (s : State) : Host.Outcome State Fault Refusal :=
  match i with
  | .und00 payload => Sys2Proof.Machine.execUnd00 payload s
  | .pause k => Sys2Proof.Machine.execPause k s
  | .mov rd rs lat c dir m => Sys2Proof.Machine.execMov rd rs lat c dir m s
  | .st rd rs wd m => Sys2Proof.Machine.execSt rd rs wd m s
  | .ld rd rs wd m => Sys2Proof.Machine.execLd rd rs wd m s
  | .ldi rd x imm => Sys2Proof.Machine.execLdi rd x imm s
  | .lra rd x off => Sys2Proof.Machine.execLra rd x off s
  | .addi rd sx c h imm => Sys2Proof.Machine.execAddi rd sx c h imm s
  | .add rd ra rb c sh p => Sys2Proof.Machine.execAdd rd ra rb c sh p s
  | .sub rd ra rb c sh p => Sys2Proof.Machine.execSub rd ra rb c sh p s
  | .and rd ra rb c sh p inv => Sys2Proof.Machine.execAnd rd ra rb c sh p inv s
  | .or rd ra rb c sh p inv => Sys2Proof.Machine.execOr rd ra rb c sh p inv s
  | .xor rd ra rb c sh p inv => Sys2Proof.Machine.execXor rd ra rb c sh p inv s
  | .fsl rd rv rq c x wr rr => Sys2Proof.Machine.execFsl rd rv rq c x wr rr s
  | .fsr rd rv rq c x wr rr => Sys2Proof.Machine.execFsr rd rv rq c x wr rr s
  | .jmp c l off => Sys2Proof.Machine.execJmp c l off s
  | .jmpr c l rr => Sys2Proof.Machine.execJmpr c l rr s
  | .portIn rd p n => Sys2Proof.Machine.execPortIn rd p n s
  | .portOut rs p n => Sys2Proof.Machine.execPortOut rs p n s
  | .ldflags rd => Sys2Proof.Machine.execLdflags rd s
  | .stflags rs => Sys2Proof.Machine.execStflags rs s
  | .xvp => Sys2Proof.Machine.execXvp s
  | .xchg ra rb lat c => Sys2Proof.Machine.execXchg ra rb lat c s
  | .ext rd rs x n => Sys2Proof.Machine.execExt rd rs x n s
  | .cpi0 f p => Sys2Proof.Machine.execCpi0 f p s
  | .cpi1 f p => Sys2Proof.Machine.execCpi1 f p s
  | .cpi2 f p => Sys2Proof.Machine.execCpi2 f p s
  | .cpi3 f p => Sys2Proof.Machine.execCpi3 f p s
  | .cpi4 f p => Sys2Proof.Machine.execCpi4 f p s
  | .cpi5 f p => Sys2Proof.Machine.execCpi5 f p s
  | .cpi6 f p => Sys2Proof.Machine.execCpi6 f p s
  | .cpi7 f p => Sys2Proof.Machine.execCpi7 f p s
  | .ncpi0 f p => Sys2Proof.Machine.execNcpi0 f p s
  | .ncpi1 f p => Sys2Proof.Machine.execNcpi1 f p s
  | .ncpi2 f p => Sys2Proof.Machine.execNcpi2 f p s
  | .ncpi3 f p => Sys2Proof.Machine.execNcpi3 f p s
  | .ncpi4 f p => Sys2Proof.Machine.execNcpi4 f p s
  | .ncpi5 f p => Sys2Proof.Machine.execNcpi5 f p s
  | .ncpi6 f p => Sys2Proof.Machine.execNcpi6 f p s
  | .ncpi7 f p => Sys2Proof.Machine.execNcpi7 f p s
  | .cpi0ef f p => Sys2Proof.Machine.execCpi0ef f p s
  | .cpi1ef f p => Sys2Proof.Machine.execCpi1ef f p s
  | .cpi2ef f p => Sys2Proof.Machine.execCpi2ef f p s
  | .cpi3ef f p => Sys2Proof.Machine.execCpi3ef f p s
  | .cpi4ef f p => Sys2Proof.Machine.execCpi4ef f p s
  | .cpi5ef f p => Sys2Proof.Machine.execCpi5ef f p s
  | .cpi6ef f p => Sys2Proof.Machine.execCpi6ef f p s
  | .cpi7ef f p => Sys2Proof.Machine.execCpi7ef f p s
  | .ncpi0ef f p => Sys2Proof.Machine.execNcpi0ef f p s
  | .ncpi1ef f p => Sys2Proof.Machine.execNcpi1ef f p s
  | .ncpi2ef f p => Sys2Proof.Machine.execNcpi2ef f p s
  | .ncpi3ef f p => Sys2Proof.Machine.execNcpi3ef f p s
  | .ncpi4ef f p => Sys2Proof.Machine.execNcpi4ef f p s
  | .ncpi5ef f p => Sys2Proof.Machine.execNcpi5ef f p s
  | .ncpi6ef f p => Sys2Proof.Machine.execNcpi6ef f p s
  | .ncpi7ef f p => Sys2Proof.Machine.execNcpi7ef f p s
  | .halt => Sys2Proof.Machine.execHalt s
  | .stop => Sys2Proof.Machine.execStop s
  | .undFF payload => Sys2Proof.Machine.execUndFF payload s

end Sys2Proof.Machine
end

