-- ==== Sys2Proof/Machine/Cycle.lean ====
section
/-! DEFINITION. One step of the machine: fetching and running an instruction, the Tick, and the inputs
(60_exceptions.md R320; 20_memory.md R72; 30_encoding.md R111). -/

namespace Sys2Proof.Machine

/-- The instruction word at the pc (R72, R101). -/
def State.fetchWord (s : State) : Word := memRead s.mem s.pc .word

/-- Execute one instruction at the pc, with the checks in the order of 60_exceptions.md R345: the fetch, the
opcode and the must-be-zero bits, then the instruction's own. An unaligned pc cannot happen (log 14). -/
def State.runInstruction (s : State) : Host.Outcome State Fault Refusal :=
  if !aligned s.pc .word then .fault .misalignedFetch
  else if !s.busOK s.pc .word .fetch then .next (s.raise .busFault)
  else
    match decode s.fetchWord with
    | .error _ => .next (s.raise .invalidInstruction)
    | .ok i => exec i s

/-- `step(Tick)` (R320): a stopped CPU does nothing; with `m = 3` the oldest buffered IRQ is delivered (R322);
otherwise an executing CPU runs an instruction and a halted one waits (49_halt_stop.md R267). -/
def State.tick (s : State) : Host.Outcome State Fault Refusal :=
  if s.status = .stopped then .next s
  else
    match s.blocks 3, s.irqBuffer with
    | false, v :: rest => .next ({ s with irqBuffer := rest }.deliverEvent (.irq v) s.pc)
    | _, _ => if s.status = .executing then s.runInstruction else .next s

/-- One step: the next input, or a Tick where there is none (R320). -/
def State.cycle (s : State) : Host.Outcome State Fault Refusal :=
  match s.inputs with
  | [] => s.tick
  | .tick :: rest => { s with inputs := rest }.tick
  | .reset :: rest => .next { s with inputs := rest }.enterReset
  | .event e :: rest => .next ({ s with inputs := rest }.acceptEvent e)

/-- The instruction whose bits are `w`, stored where the next fetch reads it. -/
def State.storeProgramWord (s : State) (nbits w : Nat) : State :=
  { s with mem := memWrite s.mem s.pc .word (BitVec.ofNat 32 (w % 2 ^ nbits)) }

end Sys2Proof.Machine
end

