-- ==== Sys2Proof/Machine/Step.lean ====
section
/-! DEFINITION. The step of the machine, and the placing of one instruction where it fetches. -/

namespace Sys2Proof.Machine

/-- One step (60_exceptions.md R320). -/
def step (s : State) : Host.Outcome State Fault Refusal := s.cycle

/-- The state with the instruction whose bits are `w` at the pc, four bytes in little-endian order (20_memory.md
R71). Nothing else changes: the next Tick of an executing CPU fetches there (log 5). -/
def State.withFetchWord (s : State) (nbits w : Nat) : State := s.storeProgramWord nbits w

end Sys2Proof.Machine
end

