-- ==== Sys2Proof/Safety.lean ====
section
/-! DEFINITION. What a safe machine state is, and the words the statements use: frames, results, table entries,
the transition of reset, the forms of the coprocessor instructions. -/

namespace Sys2Proof.Machine

/-- What every step keeps: the pc is a multiple of 4 (10_state.md R24), only present coprocessors are enabled
(R45, R46), the buffer is within its capacity (R53), memory is in canonical form. -/
structure State.Inv (s : State) : Prop where
  pcAligned : aligned s.pc .word = true
  enabledPresent : s.cpe &&& ~~~s.plat.cpPresent = 0#8
  bufferFits : s.irqBuffer.length ≤ s.plat.irqCapacity
  memCanonical : s.mem.wf = true

/-! ### Frames: `s` is the state before, `t` the state after -/

/-- Every general register outside `ds` is unchanged. -/
def SameRegsExcept (ds : List RegNum) (s t : State) : Prop :=
  ∀ r, r ∉ ds → t.readReg r = s.readReg r

/-- Every byte of memory is unchanged. -/
def SameMemory (s t : State) : Prop := ∀ a, t.mem.read a = s.mem.read a

/-- Every byte of memory outside the `w` bytes that start at `addr` is unchanged. -/
def SameMemoryOutside (addr : Word) (w : Width) (s t : State) : Prop :=
  ∀ a, (∀ k, k < widthBytes w → a ≠ (addr + BitVec.ofNat 32 k).toNat) → t.mem.read a = s.mem.read a

/-- Status, every register of maps 1, 2 and 4, and the pending IRQs are unchanged. -/
structure SameSystem (s t : State) : Prop where
  status : t.status = s.status
  mask : t.mask = s.mask
  abort : t.abort = s.abort
  intret1 : t.intret1 = s.intret1
  intret2 : t.intret2 = s.intret2
  intret3 : t.intret3 = s.intret3
  ints : t.ints = s.ints
  intd : t.intd = s.intd
  inttab : t.inttab = s.inttab
  io : t.io = s.io
  cpe : t.cpe = s.cpe
  irqBuffer : t.irqBuffer = s.irqBuffer

/-- The parameters, the inputs, the answers to come and the calls made are unchanged. -/
structure SameEnvironment (s t : State) : Prop where
  plat : t.plat = s.plat
  inputs : t.inputs = s.inputs
  portAnswers : t.portAnswers = s.portAnswers
  cpAnswers : t.cpAnswers = s.cpAnswers
  cpErrors : t.cpErrors = s.cpErrors
  log : t.log = s.log
  resets : t.resets = s.resets

/-- Nothing but the general registers `ds`, the flags and the pc may differ. Where an instruction writes another
field, the statement puts that field's new value into `s`: `OnlyRegisters ds { s with io := t.io } t`. -/
structure OnlyRegisters (ds : List RegNum) (s t : State) : Prop where
  regs : SameRegsExcept ds s t
  memory : SameMemory s t
  system : SameSystem s t
  environment : SameEnvironment s t

/-- A synchronous exception's return address, by the parameter EXC_RETURN_ADDR (60_exceptions.md R331). -/
def State.syncReturn (s : State) : Word :=
  if s.plat.excReturn = .faulting then s.pc else s.pc + 4#32

/-- Nothing but the general registers `ds` differs and the pc is the next instruction's: the flags are unchanged. -/
structure Completes (ds : List RegNum) (s t : State) : Prop where
  pc : t.pc = s.pc + 4#32
  flags : t.flags = s.flags
  rest : OnlyRegisters ds s t

/-- Register `d` holds `v` after its write: r0 still reads 0 (10_state.md R22). -/
def HasResult (d : RegNum) (v : Word) (t : State) : Prop := t.readReg d = if d = 0#5 then 0#32 else v

/-! ### Arithmetic and logic, said on numbers and bits -/

/-- An operand of ADD or SUB as a number, shifted left where it is the shifted one (43_arithmetic_logic.md R171). -/
def operandNat (v : Word) (shifted : Bool) (n : BitVec 5) : Nat :=
  if shifted then v.toNat * 2 ^ n.toNat % 2 ^ 32 else v.toNat

/-- The two's-complement value of a 32-bit number. -/
def signedValue (x : Nat) : Int := if x < 2 ^ 31 then x else (x : Int) - 2 ^ 32

/-- An integer that 32 bits in two's complement do not hold. -/
def signedOverflow (z : Int) : Prop := z < -2 ^ 31 ∨ 2 ^ 31 ≤ z

/-- The flags of the sum of two 32-bit numbers (43_arithmetic_logic.md R177, decision D12). -/
structure FlagsOfSum (x y : Nat) (old new : Flags) : Prop where
  c : new.c = true ↔ 2 ^ 32 ≤ x + y
  v : new.v = true ↔ signedOverflow (signedValue x + signedValue y)
  n : new.n = true ↔ 2 ^ 31 ≤ (x + y) % 2 ^ 32
  z : new.z = true ↔ (x + y) % 2 ^ 32 = 0
  p : new.p = old.p

/-- The flags of the difference of two 32-bit numbers; c is the borrow (R177, decision D12). -/
structure FlagsOfDifference (x y : Nat) (old new : Flags) : Prop where
  c : new.c = true ↔ x < y
  v : new.v = true ↔ signedOverflow (signedValue x - signedValue y)
  n : new.n = true ↔ 2 ^ 31 ≤ (x + 2 ^ 32 - y) % 2 ^ 32
  z : new.z = true ↔ x = y
  p : new.p = old.p

/-- The flags of a logic result: n and z, the others kept (R178, decision D13). -/
structure FlagsOfLogic (r : Word) (old new : Flags) : Prop where
  n : new.n = r.getLsbD 31
  z : new.z = true ↔ ∀ k, k < 32 → r.getLsbD k = false
  c : new.c = old.c
  v : new.v = old.v
  p : new.p = old.p

/-- Bit `k` of an operand of a logic instruction: shifted left, then inverted (R171, R174). -/
def operandBit (v : Word) (shifted : Bool) (n : BitVec 5) (inverted : Bool) (k : Nat) : Bool :=
  inverted != (if shifted then decide (n.toNat ≤ k) && v.getLsbD (k - n.toNat) else v.getLsbD k)

/-! ### The interrupt table (60_exceptions.md R305, R334) -/

/-- The address of entry `n`: `inttab + 8n`. -/
def State.entryAddress (s : State) (n : Nat) : Word := s.inttabWord + BitVec.ofNat 32 (8 * n)

/-- Both words of entry `n` can be read. -/
def State.EntryReadable (s : State) (n : Nat) : Prop :=
  s.busOK (s.entryAddress n) .word .read = true ∧ s.busOK (s.entryAddress n + 4#32) .word .read = true

/-- Entry `n` is present and valid, and `h` is its handler's address. -/
def State.EntryHolds (s : State) (n : Nat) (h : Word) : Prop :=
  s.EntryReadable n ∧ bit (memRead s.mem (s.entryAddress n) .word) 0 = true ∧
    bit (memRead s.mem (s.entryAddress n) .word) 1 = false ∧
    memRead s.mem (s.entryAddress n + 4#32) .word = 0#32 ∧
    h = memRead s.mem (s.entryAddress n) .word &&& 0xFFFFFFFC#32

/-- Entry `n` can be read and is invalid: the p bit is 0, or a bit drawn 0 is 1. -/
def State.EntryInvalid (s : State) (n : Nat) : Prop :=
  s.EntryReadable n ∧ (bit (memRead s.mem (s.entryAddress n) .word) 0 = false ∨
    bit (memRead s.mem (s.entryAddress n) .word) 1 = true ∨
    memRead s.mem (s.entryAddress n + 4#32) .word ≠ 0#32)

/-- Entry `n` leads to no handler. -/
def State.EntryBad (s : State) (n : Nat) : Prop := ¬ s.EntryReadable n ∨ s.EntryInvalid n

/-- `t` is `s` in the abort handler at `h` (R333). -/
structure InAbortHandler (h : Word) (s t : State) : Prop where
  pc : t.pc = h
  abort : t.abort = true
  mask : t.mask = 0#2
  status : t.status = .executing
  flags : t.flags = s.flags
  rest : OnlyRegisters [] { s with abort := t.abort, mask := t.mask, status := t.status } t

/-- `t` is `s` in the handler at `h` of a synchronous exception, `ret` saved in `intret1` (R332, P = 1). -/
structure InExceptionHandler (h ret : Word) (s t : State) : Prop where
  pc : t.pc = h
  intret1 : t.intret1 = ret
  mask : t.mask = 0#2
  status : t.status = .executing
  flags : t.flags = s.flags
  rest : OnlyRegisters [] { s with intret1 := t.intret1, mask := t.mask, status := t.status } t

/-- `t` is `s` in the handler at `h` of a priority-2 event, `ret` saved in `intret2` (R332, P = 2). -/
structure InEventHandler (h ret : Word) (s t : State) : Prop where
  pc : t.pc = h
  intret2 : t.intret2 = ret
  mask : t.mask = 1#2
  status : t.status = .executing
  flags : t.flags = s.flags
  rest : OnlyRegisters [] { s with intret2 := t.intret2, mask := t.mask, status := t.status } t

/-- `t` is `s` in the handler at `h` of an IRQ, `ret` saved in `intret3` (R332, P = 3). -/
structure InIrqHandler (h ret : Word) (s t : State) : Prop where
  pc : t.pc = h
  intret3 : t.intret3 = ret
  mask : t.mask = 2#2
  status : t.status = .executing
  flags : t.flags = s.flags
  rest : OnlyRegisters [] { s with intret3 := t.intret3, mask := t.mask, status := t.status } t

/-- `t` is `s` after RESET (70_reset_and_hazards.md R400). Nothing is said of the registers that reset leaves
undefined; memory and the environment are kept, and one more reset is counted. -/
structure IsReset (s t : State) : Prop where
  status : t.status = .executing
  pc : t.pc = 0x0000FF00#32
  cpe : t.cpe = 0#8
  mask : t.mask = 0#2
  abort : t.abort = false
  irqBuffer : t.irqBuffer = []
  memory : SameMemory s t
  environment : SameEnvironment { s with resets := s.resets + 1 } t

/-! ### Fetching and the forms of instructions -/

/-- The next Tick runs an instruction: no other input is first, the CPU executes, no buffered IRQ is deliverable. -/
def State.RunsNext (s : State) : Prop :=
  (s.inputs = [] ∨ s.inputs.head? = some .tick) ∧ s.status = .executing ∧ (s.mask ≠ 3#2 ∨ s.irqBuffer = [])

/-- The fetch at the pc gives the word `w`. -/
def State.Fetches (s : State) (w : Word) : Prop :=
  aligned s.pc .word = true ∧ s.busOK s.pc .word .fetch = true ∧ s.fetchWord = w

/-- The state with its first input taken. -/
def State.nextInput (s : State) : State := { s with inputs := s.inputs.tail }

/-- A word of opcode `op` with a 1 among the bits `reserved` raises EX[2] (30_encoding.md R108). -/
def RaisesOnReservedBits (op : BitVec 8) (reserved : Word) : Prop :=
  ∀ (s : State) (w : Word), s.RunsNext → s.Fetches w → field w 0 8 = op → w &&& reserved ≠ 0#32 →
    step s = .next (s.nextInput.raise .invalidInstruction)

/-- The must-be-zero bits of each defined opcode (30_encoding.md R103, R105); none for an unknown opcode. -/
def reservedBits (op : BitVec 8) : Option Word :=
  match op.toNat with
  | 0x00 | 0xFF | 0x08 | 0x0B | 0x0C | 0x0D | 0x10 => some 0#32
  | 0x01 => some 0xFFFFC000#32
  | 0x02 => some 0xC00C0000#32
  | 0x03 | 0x04 => some 0x3FF00000#32
  | 0x05 | 0x06 => some 0x0000C000#32
  | 0x09 | 0x0A => some 0xC0000000#32
  | 0x0E | 0x0F => some 0x02000000#32
  | 0x11 => some 0xFFC00000#32
  | 0x14 | 0x15 => some 0x07E00000#32
  | 0x18 | 0x19 => some 0xFFFFE000#32
  | 0x1A | 0x40 | 0x41 => some 0xFFFFFF00#32
  | 0x1C => some 0xFE0C0000#32
  | 0x1D => some 0x07F80000#32
  | n => if 0x20 ≤ n ∧ n ≤ 0x3F then some 0#32 else none

/-- The coprocessor and the function of a waiting form, CPI0 to CPI7 and CPI0EF to CPI7EF (48_coprocessor.md
R252, R254). -/
def waitingForm : Instr → Option (BitVec 3 × CpFunction)
  | .cpi0 f p => some (0#3, .base f p)
  | .cpi1 f p => some (1#3, .base f p)
  | .cpi2 f p => some (2#3, .base f p)
  | .cpi3 f p => some (3#3, .base f p)
  | .cpi4 f p => some (4#3, .base f p)
  | .cpi5 f p => some (5#3, .base f p)
  | .cpi6 f p => some (6#3, .base f p)
  | .cpi7 f p => some (7#3, .base f p)
  | .cpi0ef f p => some (0#3, .extended f p)
  | .cpi1ef f p => some (1#3, .extended f p)
  | .cpi2ef f p => some (2#3, .extended f p)
  | .cpi3ef f p => some (3#3, .extended f p)
  | .cpi4ef f p => some (4#3, .extended f p)
  | .cpi5ef f p => some (5#3, .extended f p)
  | .cpi6ef f p => some (6#3, .extended f p)
  | .cpi7ef f p => some (7#3, .extended f p)
  | _ => none

/-- The coprocessor and the function of a non-waiting form, NCPI0 to NCPI7 and NCPI0EF to NCPI7EF (R253, R255). -/
def nonWaitingForm : Instr → Option (BitVec 3 × CpFunction)
  | .ncpi0 f p => some (0#3, .base f p)
  | .ncpi1 f p => some (1#3, .base f p)
  | .ncpi2 f p => some (2#3, .base f p)
  | .ncpi3 f p => some (3#3, .base f p)
  | .ncpi4 f p => some (4#3, .base f p)
  | .ncpi5 f p => some (5#3, .base f p)
  | .ncpi6 f p => some (6#3, .base f p)
  | .ncpi7 f p => some (7#3, .base f p)
  | .ncpi0ef f p => some (0#3, .extended f p)
  | .ncpi1ef f p => some (1#3, .extended f p)
  | .ncpi2ef f p => some (2#3, .extended f p)
  | .ncpi3ef f p => some (3#3, .extended f p)
  | .ncpi4ef f p => some (4#3, .extended f p)
  | .ncpi5ef f p => some (5#3, .extended f p)
  | .ncpi6ef f p => some (6#3, .extended f p)
  | .ncpi7ef f p => some (7#3, .extended f p)
  | _ => none

/-- The instructions that write a flag (10_state.md R26). -/
def writesFlags : Instr → Bool
  | .addi _ _ _ _ _ | .add _ _ _ _ _ _ | .sub _ _ _ _ _ _ | .and _ _ _ _ _ _ _ | .or _ _ _ _ _ _ _
  | .xor _ _ _ _ _ _ _ | .stflags _ | .xvp => true
  | _ => false

/-- The instructions that write p (47_flags_xchg_ext.md R235). -/
def writesParity : Instr → Bool
  | .stflags _ | .xvp => true
  | _ => false

/-- The instruction is a MOV to map `m`. -/
def movesToMap (m : BitVec 4) : Instr → Bool
  | .mov _ _ _ _ .toMap m' => m' == m
  | _ => false

/-- The instruction is IN or OUT. -/
def transfersBits : Instr → Bool
  | .portIn _ _ _ | .portOut _ _ _ => true
  | _ => false

/-- The instruction is ST. -/
def stores : Instr → Bool
  | .st _ _ _ _ => true
  | _ => false

/-! ### MOV and the system registers -/

/-- MOV from register `k` of map `m` completes in every state, and where its condition holds the destination gets
`value` (41_move.md R140). -/
def MovReads (m : BitVec 4) (k : RegNum) (value : State → Word) : Prop :=
  ∀ (d : RegNum) (l : Bool) (c : Cond) (s : State), ∃ t, exec (.mov d k l c .fromMap m) s = .next t ∧
    if checkCondition s.flags c = true then HasResult d (value s) t ∧ Completes [d] s t else Completes [] s t

/-- MOV to register `k` of map `m`, in every state: where its condition holds, a legal value is stored as `stored`
says and an illegal one raises EX[4]; where it does not hold, nothing is written (R140, R141). -/
def MovWrites (m : BitVec 4) (k : RegNum) (legal : State → Word → Prop) (stored : State → Word → State) : Prop :=
  ∀ (r : RegNum) (l : Bool) (c : Cond) (s : State),
    (checkCondition s.flags c = true → legal s (s.readReg r) →
      exec (.mov k r l c .toMap m) s = .next { stored s (s.readReg r) with pc := s.pc + 4#32 }) ∧
    (checkCondition s.flags c = true → ¬ legal s (s.readReg r) →
      exec (.mov k r l c .toMap m) s = .next (s.raise .consistency)) ∧
    (checkCondition s.flags c = false → exec (.mov k r l c .toMap m) s = .next { s with pc := s.pc + 4#32 })

/-- MOV from or to register `k` of map `m` raises EX[2] in the state, whether or not its condition holds (R141). -/
def MovRaises (dir : Direction) (m : BitVec 4) (k : RegNum) (s : State) : Prop :=
  ∀ (r : RegNum) (l : Bool) (c : Cond),
    exec (match dir with
      | .fromMap => .mov r k l c .fromMap m
      | .toMap => .mov k r l c .toMap m) s = .next (s.raise .invalidInstruction)

end Sys2Proof.Machine
end

