-- ==== Sys2Proof/Certificates/Slice0/Obligations.lean ====
section
/-! DEFINITION. The statements for the provers. -/

open Sys2Proof Sys2Proof.Machine

/-! ### Decoding and encoding -/

/-- Every instruction, with every operand at every value its field admits, is what its own word decodes to. -/
def Obligations.DecodeOfEncode : Prop := ∀ i : Instr, decode (encode i) = .ok i

/-- A word that decodes is the word of the instruction it decodes to: no bit of it is dropped. For the bits drawn 0
this rests on the spec's decision D2 (log 29): a 1 there makes a word undecodable. -/
def Obligations.EncodeOfDecode : Prop := ∀ (w : Word) (i : Instr), decode w = .ok i → encode i = w

/-- A word is an instruction exactly when its opcode is defined and its must-be-zero bits are 0; the opcodes that are
not defined are the 197 of R106. The must-be-zero clause is the spec's decision D2. -/
def Obligations.DecodesExactlyTheTable : Prop :=
  (∀ w : Word, (∃ i, decode w = .ok i) ↔ ∃ z, reservedBits (field w 0 8) = some z ∧ w &&& z = 0#32) ∧
  (∀ op : BitVec 8, reservedBits op = none ↔
    op = 0x07#8 ∨ op = 0x12#8 ∨ op = 0x13#8 ∨ op = 0x16#8 ∨ op = 0x17#8 ∨ op = 0x1B#8 ∨ op = 0x1E#8 ∨
    op = 0x1F#8 ∨ (0x42 ≤ op.toNat ∧ op.toNat ≤ 0xFE))

/-- Every word with opcode 0x20 to 0x3F is a coprocessor instruction, and its coprocessor, form, function and payload
are the bits R256 and R257 say. -/
def Obligations.CoprocessorOpcodeStructure : Prop :=
  ∀ w : Word, field w 5 3 = 1#3 →
    ∃ i, decode w = .ok i ∧
      (if bit w 3 = true then nonWaitingForm i else waitingForm i) =
        some (field w 0 3, if bit w 4 = true then .extended (field w 8 6) (field w 14 18)
          else .base (field w 8 4) (field w 12 20))

/-- Words of the spec's examples decode to the instructions they stand for. -/
def Obligations.ExampleWordsDecode : Prop :=
  decode 0x07E0BF02#32 = .ok (.mov 31#5 5#5 false .always .toMap 1#4) ∧
  decode 0xC0042203#32 = .ok (.st 2#5 1#5 .half .preDec) ∧
  decode 0x8808230D#32 = .ok (.xor 3#5 1#5 2#5 false 8#5 false 2#2) ∧
  decode 0x2408230E#32 = .ok (.fsl 3#5 1#5 2#5 false false true 4#5) ∧
  decode 0x0021FF10#32 = .ok (.jmp .always 31#5 16#15) ∧
  decode 0xF81FE115#32 = .ok (.portOut 1#5 0xFF#8 31#5) ∧
  decode 0x0040411C#32 = .ok (.xchg 1#5 2#5 false .zero) ∧
  decode 0x4004231D#32 = .ok (.ext 3#5 1#5 .zero 8#5) ∧
  decode 0x7FFFEA33#32 = .ok (.cpi3ef 0x2A#6 0x1FFFF#18)

/-! ### One step -/

/-- When the next Tick runs an instruction and the word at the pc decodes to `i`, the step is `exec i`, on the state
with its Tick taken from the inputs. -/
def Obligations.StepRunsDecodedInstruction : Prop :=
  ∀ (s : State) (w : Word) (i : Instr), s.RunsNext → s.Fetches w → decode w = .ok i →
    step s = exec i s.nextInput

/-- An unknown opcode and UND raise EX[2] in the step that fetches them, whatever the payload. -/
def Obligations.UnknownOpcodeAndUndRaise : Prop :=
  (∀ (s : State) (w : Word), s.RunsNext → s.Fetches w →
    (field w 0 8 = 0x00#8 ∨ field w 0 8 = 0xFF#8 ∨ field w 0 8 = 0x07#8 ∨ field w 0 8 = 0x12#8 ∨
      field w 0 8 = 0x13#8 ∨ field w 0 8 = 0x16#8 ∨ field w 0 8 = 0x17#8 ∨ field w 0 8 = 0x1B#8 ∨
      field w 0 8 = 0x1E#8 ∨ field w 0 8 = 0x1F#8 ∨
      (0x42 ≤ (field w 0 8).toNat ∧ (field w 0 8).toNat ≤ 0xFE)) →
    step s = .next (s.nextInput.raise .invalidInstruction)) ∧
  decode 0#32 = .ok (.und00 0#24) ∧ decode 0xFFFFFFFF#32 = .ok (.undFF 0xFFFFFF#24)

/-- The checks of a fetch, in their order: EX[1] where the bus does not answer, whatever is at the pc (decision D5),
and EX[2] for a must-be-zero bit that is 1, for every defined opcode (decision D2, log 29). -/
def Obligations.FetchAndReservedBitChecks : Prop :=
  (∀ s : State, s.RunsNext → aligned s.pc .word = true → s.busOK s.pc .word .fetch = false →
    step s = .next (s.nextInput.raise .busFault)) ∧
  (∀ (op : BitVec 8) (z : Word), reservedBits op = some z → RaisesOnReservedBits op z)

/-- An instruction with an illegal field value raises EX[2] in every state. That MOV raises whether or not its
condition holds and that maps 5 to 7 have no register is decision D33 (log 33); that update mode 2 is illegal in LD is
decision D18 (log 34). -/
def Obligations.IllFormedRaises : Prop :=
  ∀ (i : Instr) (s : State), i.wf = false → exec i s = .next (s.raise .invalidInstruction)

/-- While stopped, nothing but a reset changes anything; while halted, a Tick with no deliverable IRQ changes nothing.
The input is consumed and that is all (decision D22, log 15). -/
def Obligations.WaitingCpuKeepsItsState : Prop :=
  (∀ s : State, s.status = .stopped → s.inputs.head? ≠ some .reset → step s = .next s.nextInput) ∧
  (∀ s : State, s.status = .halted → (s.inputs = [] ∨ s.inputs.head? = some .tick) →
    (s.mask ≠ 3#2 ∨ s.irqBuffer = []) → step s = .next s.nextInput)

/-! ### Reset -/

/-- What reset leaves, on every platform: executing, pc 0xFF00, `cpe` 0, m and a 0, r0 0, `cpp` CP_PRESENT,
no pending IRQ. -/
def Obligations.ResetStateValues : Prop :=
  ∀ p : Platform, (State.resetOn p).status = .executing ∧ (State.resetOn p).pc = 0x0000FF00#32 ∧
    (State.resetOn p).sysValue .cpe = 0#32 ∧ (State.resetOn p).sysValue .intctl = 0#32 ∧
    (State.resetOn p).readReg 0#5 = 0#32 ∧ (State.resetOn p).irqBuffer = [] ∧
    ((State.resetOn p).sysValue .cpp).toNat = p.cpPresent.toNat ∧ State.reset = State.resetOn Platform.bare

/-- The input Reset performs RESET in every state, stopped and halted among them. -/
def Obligations.ResetInputResets : Prop :=
  ∀ (s : State) (rest : List Input), s.inputs = .reset :: rest →
    ∃ t, step s = .next t ∧ IsReset { s with inputs := rest } t

/-! ### Exceptions -/

/-- A synchronous exception that is not blocked, with a valid entry: the return address in `intret1`, m = 0, the pc
at the handler, everything else unchanged (decision D23, log 13). -/
def Obligations.ExceptionEntry : Prop :=
  ∀ (e : SyncExc) (h : Word) (s : State), s.mask ≠ 0#2 → s.EntryHolds (excNumber e).toNat h →
    InExceptionHandler h s.syncReturn s (s.raise e)

/-- A blocked synchronous exception: reset where a = 1; else the abort through entry 0, and reset where that entry
is bad (decision D24, log 13). -/
def Obligations.BlockedExceptionAbortsOrResets : Prop :=
  ∀ (e : SyncExc) (s : State), s.mask = 0#2 →
    (s.abort = true → IsReset s (s.raise e)) ∧
    (∀ h, s.abort = false → s.EntryHolds 0 h → InAbortHandler h s (s.raise e)) ∧
    (s.abort = false → s.EntryBad 0 → IsReset s (s.raise e))

/-- A bad entry met on the way into a priority-1 handler: the return address is saved, then the second exception is
blocked (decision D27). -/
def Obligations.BadEntryOfException : Prop :=
  ∀ (e : SyncExc) (s : State), s.mask ≠ 0#2 → s.EntryBad (excNumber e).toNat →
    (s.abort = true → IsReset s (s.raise e)) ∧
    (∀ h, s.abort = false → s.EntryHolds 0 h →
      InAbortHandler h { s with intret1 := s.syncReturn } (s.raise e)) ∧
    (s.abort = false → s.EntryBad 0 → IsReset s (s.raise e))

/-- A priority-2 event, NMI or unit error, that arrives with m of 2 or 3 is delivered, whether the CPU executes or
is halted (decisions D22, D23). -/
def Obligations.EventEntry : Prop :=
  ∀ (e : Event) (h : Word) (rest : List Input) (s : State), eventPriority e = 2 → s.inputs = .event e :: rest →
    s.status ≠ .stopped → 2 ≤ s.mask.toNat → s.EntryHolds (eventNumber e).toNat h →
    ∃ t, step s = .next t ∧ InEventHandler h s.pc { s with inputs := rest } t

/-- A priority-2 event that arrives with m below 2 is dropped: the input is consumed and nothing else changes. So is
the unit error of a waiting coprocessor instruction: the instruction completes as without an error. That m masks the
NMI is the spec's choice in conflict C34 (log 22); the clause on the unit error is decision D36 (log 21). -/
def Obligations.BlockedEventDiscarded : Prop :=
  (∀ (e : Event) (rest : List Input) (s : State), eventPriority e = 2 → s.inputs = .event e :: rest →
    s.mask.toNat < 2 → step s = .next { s with inputs := rest }) ∧
  (∀ (i : Instr) (cp : BitVec 3) (fn : CpFunction) (s : State), waitingForm i = some (cp, fn) →
    s.cpe.getLsbD cp.toNat = true → s.mask.toNat < 2 →
    ∃ t, exec i s = .next t ∧ Completes [] { s with log := t.log, cpErrors := t.cpErrors } t)

/-- An IRQ that arrives: delivered with m = 3 and no older IRQ waiting, else the youngest of the buffer where there
is room, else dropped (decision D28, log 17). -/
def Obligations.IrqArrival : Prop :=
  ∀ (v : IrqNum) (rest : List Input) (s : State), s.inputs = .event (.irq v) :: rest → s.status ≠ .stopped →
    (∀ h, s.mask = 3#2 → s.irqBuffer = [] → s.EntryHolds (32 + v.val) h →
      ∃ t, step s = .next t ∧ InIrqHandler h s.pc { s with inputs := rest } t) ∧
    ((s.mask ≠ 3#2 ∨ s.irqBuffer ≠ []) → s.irqBuffer.length < s.plat.irqCapacity →
      step s = .next { s with inputs := rest, irqBuffer := s.irqBuffer ++ [v] }) ∧
    ((s.mask ≠ 3#2 ∨ s.irqBuffer ≠ []) → s.plat.irqCapacity ≤ s.irqBuffer.length →
      step s = .next { s with inputs := rest })

/-- A Tick with m = 3 and IRQs buffered delivers the oldest one instead of running an instruction, and ends a halt
(decision D28, log 17). -/
def Obligations.BufferedIrqDelivered : Prop :=
  ∀ (v : IrqNum) (younger : List IrqNum) (h : Word) (s : State),
    (s.inputs = [] ∨ s.inputs.head? = some .tick) → s.status ≠ .stopped → s.mask = 3#2 →
    s.irqBuffer = v :: younger → s.EntryHolds (32 + v.val) h →
    ∃ t, step s = .next t ∧ InIrqHandler h s.pc { s.nextInput with irqBuffer := younger } t

/-- A bad entry met while delivering an event: EX[1] or EX[4] is taken in its place, with the same return address
(decision D27). -/
def Obligations.BadEntryOfEvent : Prop :=
  ∀ (e : Event) (h : Word) (s : State), eventPriority e ≤ s.mask.toNat →
    (¬ s.EntryReadable (eventNumber e).toNat → s.EntryHolds 1 h →
      InExceptionHandler h s.pc (s.saveReturn (eventPriority e) s.pc) (s.deliverEvent e s.pc)) ∧
    (s.EntryInvalid (eventNumber e).toNat → s.EntryHolds 4 h →
      InExceptionHandler h s.pc (s.saveReturn (eventPriority e) s.pc) (s.deliverEvent e s.pc))

/-! ### What every step keeps -/

/-- The invariant holds after reset, on every platform. -/
def Obligations.ResetSatisfiesInv : Prop := ∀ p : Platform, (State.resetOn p).Inv

/-- Every step keeps the invariant: an aligned pc, no absent coprocessor enabled, the buffer within its capacity,
memory in canonical form. -/
def Obligations.StepKeepsInv : Prop := ∀ s t : State, s.Inv → step s = .next t → t.Inv

/-- From a state with the invariant, a step always answers a next state: no instruction, input or data stops the
machine. The premise that the pc is aligned stands for the model's own fault on an unaligned fetch (DESIGN CHOICE,
log 14). -/
def Obligations.StepAnswersNext : Prop := ∀ s : State, s.Inv → ∃ t, step s = .next t

/-- No step changes a parameter of the platform, and the record of calls only grows. -/
def Obligations.StepKeepsPlatformExtendsLog : Prop :=
  ∀ s t : State, step s = .next t → t.plat = s.plat ∧ ∃ calls, t.log = calls ++ s.log

/-- ST is the only instruction that changes memory; an exception that another raises changes none either, nor does a
reset it ends in. That entry writes no memory is decision D23 (log 13), that memory survives a reset decision D37
(log 28), that coprocessors and ports touch none decision D21 (log 26). -/
def Obligations.OnlyStoresChangeMemory : Prop :=
  ∀ (i : Instr) (s t : State), exec i s = .next t → stores i = false → t.mem = s.mem

/-- Only the instructions of R26 change a flag and only STFLAGS and XVP change p, resets apart. That exception entry
keeps the flags is decision D23 (log 13), that FSL and FSR write none decision D17 (log 19), that a coprocessor touches
none decision D21 (log 26). -/
def Obligations.OnlyFlagWritersChangeFlags : Prop :=
  ∀ (i : Instr) (s t : State), exec i s = .next t → t.resets = s.resets →
    (writesFlags i = false → t.flags = s.flags) ∧ (writesParity i = false → t.flags.p = s.flags.p)

/-- Only MOV writes `ints`, `intd`, `inttab` and `cpe`, and only MOV, IN and OUT write map 2, resets apart. That
exception entry leaves them alone is decision D23 (log 13), that `ints`, `intd` and `io` are plain storage decisions D8
and D10 (log 34), that a coprocessor touches none decision D21 (log 26). -/
def Obligations.OnlyMovWritesSystemRegisters : Prop :=
  ∀ (i : Instr) (s t : State), exec i s = .next t → t.resets = s.resets →
    (movesToMap 1#4 i = false → t.ints = s.ints ∧ t.intd = s.intd ∧ t.inttab = s.inttab) ∧
    (movesToMap 4#4 i = false → t.cpe = s.cpe) ∧
    (movesToMap 2#4 i = false → transfersBits i = false → t.io = s.io)

/-- No instruction but a MOV to `intctl` raises m: exception entry and reset only lower it (decision D23). -/
def Obligations.OnlyMovRaisesMask : Prop :=
  ∀ (i : Instr) (s t : State), exec i s = .next t → s.mask.toNat < t.mask.toNat →
    ∃ (r : RegNum) (l : Bool) (c : Cond), i = .mov 0#5 r l c .toMap 1#4

/-! ### Memory -/

/-- What a load of any width reads inside the bytes of a store of any width: those bytes of the value, the lowest
address first (decision D1, log 12). -/
def Obligations.LoadInsideStore : Prop :=
  ∀ (mem : Memory) (a v : Word) (w w' : Width) (k : Nat), k + widthBytes w' ≤ widthBytes w →
    (memRead (memWrite mem a w v) (a + BitVec.ofNat 32 k) w').toNat =
      v.toNat / 2 ^ (8 * k) % 2 ^ (8 * widthBytes w')

/-- LD in its legal forms: the bytes read, zero-extended; the base register's update comes second and wins where
it is the destination (decision D1 for the byte order, D18 for the pre-decrement). -/
def Obligations.LoadResult : Prop :=
  ∀ (d b : RegNum) (wd : WidthField) (m : UpdateMode) (w : Width) (s : State),
    m ≠ .illegal → b ≠ 0#5 → legalWidth wd = some w →
    aligned (accessAddress (s.readReg b) w m) w = true →
    s.busOK (accessAddress (s.readReg b) w m) w .read = true →
    ∃ t v, exec (.ld d b wd m) s = .next t ∧
      (∀ k, k < 4 → field v (8 * k) 8 = if k < widthBytes w
        then s.mem.read (accessAddress (s.readReg b) w m + BitVec.ofNat 32 k).toNat else 0#8) ∧
      (m = .none → HasResult d v t ∧ (d ≠ b → t.readReg b = s.readReg b)) ∧
      (m = .postInc → t.readReg b = s.readReg b + widthWord w ∧ (d ≠ b → HasResult d v t)) ∧
      (m = .preDec → t.readReg b = s.readReg b - widthWord w ∧ (d ≠ b → HasResult d v t)) ∧
      Completes [d, b] s t

/-- ST in its legal forms: the low bytes of the value at the address, every other byte as it was, the value read
before the base register's update (decision D1 for the byte order, D18 for the pre-decrement). -/
def Obligations.StoreResult : Prop :=
  ∀ (b r : RegNum) (wd : WidthField) (m : UpdateMode) (w : Width) (s : State),
    m ≠ .illegal → b ≠ 0#5 → legalWidth wd = some w →
    aligned (accessAddress (s.readReg b) w m) w = true →
    s.busOK (accessAddress (s.readReg b) w m) w .write = true →
    ∃ t, exec (.st b r wd m) s = .next t ∧
      (∀ k, k < widthBytes w →
        t.mem.read (accessAddress (s.readReg b) w m + BitVec.ofNat 32 k).toNat = field (s.readReg r) (8 * k) 8) ∧
      SameMemoryOutside (accessAddress (s.readReg b) w m) w s t ∧
      (m = .none → t.readReg b = s.readReg b) ∧
      (m = .postInc → t.readReg b = s.readReg b + widthWord w) ∧
      (m = .preDec → t.readReg b = s.readReg b - widthWord w) ∧
      Completes [b] { s with mem := t.mem } t

/-- The checks of ST and LD: EX[2] for update mode 2, base register r0 and width field 3; else EX[1] for an address
that is not a multiple of the width or that the bus does not answer. Update mode 2 in LD and the pre-decremented
address are decision D18 (log 34). -/
def Obligations.MemoryAccessTraps : Prop :=
  ∀ (b r : RegNum) (wd : WidthField) (m : UpdateMode) (s : State),
    ((m = .illegal ∨ b = 0#5 ∨ wd = .eight) →
      exec (.st b r wd m) s = .next (s.raise .invalidInstruction) ∧
      exec (.ld r b wd m) s = .next (s.raise .invalidInstruction)) ∧
    (∀ w, m ≠ .illegal → b ≠ 0#5 → legalWidth wd = some w →
      ((accessAddress (s.readReg b) w m).toNat % widthBytes w ≠ 0 ∨
        s.busOK (accessAddress (s.readReg b) w m) w .write = false →
          exec (.st b r wd m) s = .next (s.raise .busFault)) ∧
      ((accessAddress (s.readReg b) w m).toNat % widthBytes w ≠ 0 ∨
        s.busOK (accessAddress (s.readReg b) w m) w .read = false →
          exec (.ld r b wd m) s = .next (s.raise .busFault)))

/-- LDI: the immediate's signed or unsigned value, in the whole register (decision D15, log 25). LRA: the next
instruction's address plus the signed or unsigned offset, modulo 2^32. -/
def Obligations.ImmediateAndAddressResult : Prop :=
  (∀ (d : RegNum) (x : Bool) (i : BitVec 16) (s : State), ∃ t v, exec (.ldi d x i) s = .next t ∧
    (x = true → v.toInt = i.toInt) ∧ (x = false → v.toNat = i.toNat) ∧ HasResult d v t ∧ Completes [d] s t) ∧
  (∀ (d : RegNum) (x : Bool) (o : BitVec 16) (s : State), ∃ t v, exec (.lra d x o) s = .next t ∧
    (v.toNat : Int) = ((s.pc.toNat : Int) + 4 + if x = true then o.toInt else (o.toNat : Int)) % 2 ^ 32 ∧
    HasResult d v t ∧ Completes [d] s t)

/-! ### Arithmetic, logic, shifts -/

/-- ADD: the sum modulo 2^32 of the two operands, one of them shifted; the flags of the sum unless suppressed
(decision D12 for the flags). -/
def Obligations.AddResult : Prop :=
  ∀ (d a b : RegNum) (c : Bool) (n : BitVec 5) (p : Bool) (s : State), ∃ t, exec (.add d a b c n p) s = .next t ∧
    let x := operandNat (s.readReg a) p n
    let y := operandNat (s.readReg b) (!p) n
    HasResult d (BitVec.ofNat 32 (x + y)) t ∧ t.pc = s.pc + 4#32 ∧ OnlyRegisters [d] s t ∧
      (c = true → t.flags = s.flags) ∧ (c = false → FlagsOfSum x y s.flags t.flags)

/-- SUB: the difference modulo 2^32; the flags of the difference, c the borrow, unless suppressed (decision D12,
log 20). -/
def Obligations.SubResult : Prop :=
  ∀ (d a b : RegNum) (c : Bool) (n : BitVec 5) (p : Bool) (s : State), ∃ t, exec (.sub d a b c n p) s = .next t ∧
    let x := operandNat (s.readReg a) p n
    let y := operandNat (s.readReg b) (!p) n
    HasResult d (BitVec.ofNat 32 (x + 2 ^ 32 - y)) t ∧ t.pc = s.pc + 4#32 ∧ OnlyRegisters [d] s t ∧
      (c = true → t.flags = s.flags) ∧ (c = false → FlagsOfDifference x y s.flags t.flags)

/-- ADDI: the destination plus the immediate, in the high half or extended; flags as ADD (decision D14, log 25). -/
def Obligations.AddImmediateResult : Prop :=
  ∀ (d : RegNum) (sx c h : Bool) (i : BitVec 16) (s : State), ∃ t y, exec (.addi d sx c h i) s = .next t ∧
    y < 2 ^ 32 ∧ (h = true → y = i.toNat * 2 ^ 16) ∧
    (h = false → (y : Int) = (if sx = true then i.toInt else (i.toNat : Int)) % 2 ^ 32) ∧
    HasResult d (BitVec.ofNat 32 ((s.readReg d).toNat + y)) t ∧ t.pc = s.pc + 4#32 ∧ OnlyRegisters [d] s t ∧
    (c = true → t.flags = s.flags) ∧ (c = false → FlagsOfSum (s.readReg d).toNat y s.flags t.flags)

/-- AND, OR, XOR: bit by bit, of the operands shifted and then inverted; n and z unless suppressed (decision D13,
log 20). -/
def Obligations.LogicResult : Prop :=
  ∀ (d a b : RegNum) (c : Bool) (n : BitVec 5) (p : Bool) (inv : BitVec 2) (s : State),
    let x := operandBit (s.readReg a) p n (inv.getLsbD 0)
    let y := operandBit (s.readReg b) (!p) n (inv.getLsbD 1)
    ∀ (i : Instr) (op : Bool → Bool → Bool),
      (i = .and d a b c n p inv ∧ op = and) ∨ (i = .or d a b c n p inv ∧ op = or) ∨
        (i = .xor d a b c n p inv ∧ op = xor) →
      ∃ t v, exec i s = .next t ∧ (∀ k, k < 32 → v.getLsbD k = op (x k) (y k)) ∧ HasResult d v t ∧
        t.pc = s.pc + 4#32 ∧ OnlyRegisters [d] s t ∧
        (c = true → t.flags = s.flags) ∧ (c = false → FlagsOfLogic v s.flags t.flags)

/-- FSL: the upper word of the 64-bit value, remainder below, shifted left by the amount, at most 32 (decision D16,
log 19). -/
def Obligations.FunnelLeftResult : Prop :=
  ∀ (d v q : RegNum) (c x wr : Bool) (r : RegNum) (s : State), ∃ t res, exec (.fsl d v q c x wr r) s = .next t ∧
    let amount := min (if wr = true then (s.readReg q).toNat % 32 else (s.readReg q).toNat) 32
    let rem := if x = true ∧ (s.readReg v).toInt < 0 then 2 ^ 32 - 1 - (s.readReg r).toNat else (s.readReg r).toNat
    res.toNat = ((s.readReg v).toNat * 2 ^ 32 + rem) * 2 ^ amount / 2 ^ 32 % 2 ^ 32 ∧
      HasResult d res t ∧ Completes [d] s t

/-- FSR: the value moved down by the amount, at most 32, the vacated bits from the remainder's same positions
(decision D16, log 19: the spec calls this fill unverified). -/
def Obligations.FunnelRightResult : Prop :=
  ∀ (d v q : RegNum) (c x wr : Bool) (r : RegNum) (s : State), ∃ t res, exec (.fsr d v q c x wr r) s = .next t ∧
    let amount := min (if wr = true then (s.readReg q).toNat % 32 else (s.readReg q).toNat) 32
    (∀ k, k < 32 → res.getLsbD k = if k + amount < 32 then (s.readReg v).getLsbD (k + amount)
      else ((x && decide ((s.readReg v).toInt < 0)) != (s.readReg r).getLsbD k)) ∧
      HasResult d res t ∧ Completes [d] s t

/-! ### Branches -/

/-- The sixteen condition codes: their numbers, their formulas, the pairs of complements, the truth table, and no
influence of p. -/
def Obligations.ConditionCodes : Prop :=
  (∀ (c v n z p : Bool), let f : Flags := { c := c, v := v, n := n, z := z, p := p }
    checkCondition f (condOfBits 0#4) = false ∧ (checkCondition f (condOfBits 1#4) = true ↔ c = true) ∧
    (checkCondition f (condOfBits 2#4) = true ↔ z = true) ∧ (checkCondition f (condOfBits 3#4) = true ↔ v = true) ∧
    (checkCondition f (condOfBits 4#4) = true ↔ c = true ∨ z = true) ∧
    (checkCondition f (condOfBits 5#4) = true ↔ v = n ∧ z = false) ∧
    (checkCondition f (condOfBits 6#4) = true ↔ v = n ∨ z = true) ∧
    (checkCondition f (condOfBits 7#4) = true ↔ n = true) ∧ (checkCondition f (condOfBits 8#4) = true ↔ n = false) ∧
    (checkCondition f (condOfBits 9#4) = true ↔ v ≠ n ∧ z = false) ∧
    (checkCondition f (condOfBits 10#4) = true ↔ v ≠ n ∨ z = true) ∧
    (checkCondition f (condOfBits 11#4) = true ↔ c = false ∧ z = false) ∧
    (checkCondition f (condOfBits 12#4) = true ↔ v = false) ∧
    (checkCondition f (condOfBits 13#4) = true ↔ z = false) ∧
    (checkCondition f (condOfBits 14#4) = true ↔ c = false) ∧ checkCondition f (condOfBits 15#4) = true) ∧
  (∀ (f : Flags) (cc : BitVec 4), checkCondition f (condOfBits (15#4 - cc)) = !checkCondition f (condOfBits cc)) ∧
  (condOfBits 0#4 = .never ∧ condOfBits 1#4 = .carry ∧ condOfBits 2#4 = .zero ∧ condOfBits 3#4 = .overflow ∧
    condOfBits 4#4 = .carryOrEqual ∧ condOfBits 5#4 = .signedLess ∧ condOfBits 6#4 = .signedLessOrEq ∧
    condOfBits 7#4 = .negative ∧ condOfBits 8#4 = .positive ∧ condOfBits 9#4 = .signedGreater ∧
    condOfBits 10#4 = .signedGreaterOrEq ∧ condOfBits 11#4 = .above ∧ condOfBits 12#4 = .notOverflow ∧
    condOfBits 13#4 = .notZero ∧ condOfBits 14#4 = .notCarry ∧ condOfBits 15#4 = .always) ∧
  (∀ (p : Bool) (f cc : BitVec 4), checkCondition (flagsOfBits (BitVec.ofBool p ++ f)) (condOfBits cc) =
    ([0b0000011010011111#16, 0b0100111010001101#16, 0b0001000011110111#16, 0b0101100011100101#16,
      0b0000000101111111#16, 0b0100100101101101#16, 0b0001011100010111#16, 0b0101111100000101#16,
      0b0010101010101011#16, 0b0110101010101001#16, 0b0011101010100011#16, 0b0111101010100001#16,
      0b0010101100101011#16, 0b0110101100101001#16, 0b0011101100100011#16, 0b0111101100100001#16].getD f.toNat
        0#16).getLsbD (15 - cc.toNat))

/-- The conditions after a compare: the unsigned ones say what their names say of operand 1 against operand 2, the
signed ones what their names say of operand 2 against operand 1 (log 30; decision D12). -/
def Obligations.ConditionsAfterCompare : Prop :=
  ∀ (a b : RegNum) (p : Bool) (s : State), ∃ t, exec (.sub 0#5 a b false 0#5 p) s = .next t ∧
    (checkCondition t.flags .zero = true ↔ s.readReg a = s.readReg b) ∧
    (checkCondition t.flags .carry = true ↔ (s.readReg a).toNat < (s.readReg b).toNat) ∧
    (checkCondition t.flags .carryOrEqual = true ↔ (s.readReg a).toNat ≤ (s.readReg b).toNat) ∧
    (checkCondition t.flags .above = true ↔ (s.readReg b).toNat < (s.readReg a).toNat) ∧
    (checkCondition t.flags .signedLess = true ↔ (s.readReg b).toInt < (s.readReg a).toInt) ∧
    (checkCondition t.flags .signedLessOrEq = true ↔ (s.readReg b).toInt ≤ (s.readReg a).toInt) ∧
    (checkCondition t.flags .signedGreater = true ↔ (s.readReg a).toInt < (s.readReg b).toInt) ∧
    (checkCondition t.flags .signedGreaterOrEq = true ↔ (s.readReg a).toInt ≤ (s.readReg b).toInt)

/-- JMP: where the condition holds, the link register gets the next instruction's address and the pc the target,
modulo 2^32; where it does not, neither (decision D3 for the wrap). -/
def Obligations.JumpResult : Prop :=
  ∀ (c : Cond) (l : RegNum) (o : BitVec 15) (s : State), ∃ t, exec (.jmp c l o) s = .next t ∧ t.flags = s.flags ∧
    (checkCondition s.flags c = true → HasResult l (s.pc + 4#32) t ∧ OnlyRegisters [l] s t ∧
      (t.pc.toNat : Int) = ((s.pc.toNat : Int) + 4 + 4 * o.toInt) % 2 ^ 32) ∧
    (checkCondition s.flags c = false → Completes [] s t)

/-- JMPR: EX[3] where the target is not a multiple of 4, whatever the condition; else the jump, the target read
before the link is written; which words it has, and EX[2] for a must-be-zero bit (decision D2, log 29). -/
def Obligations.JumpRegisterResult : Prop :=
  (∀ (c : Cond) (l r : RegNum) (s : State),
    ((s.readReg r).toNat % 4 ≠ 0 → exec (.jmpr c l r) s = .next (s.raise .unalignedBranch)) ∧
    ((s.readReg r).toNat % 4 = 0 → ∃ t, exec (.jmpr c l r) s = .next t ∧ t.flags = s.flags ∧
      (checkCondition s.flags c = true →
        HasResult l (s.pc + 4#32) t ∧ OnlyRegisters [l] s t ∧ t.pc = s.readReg r) ∧
      (checkCondition s.flags c = false → Completes [] s t))) ∧
  (∀ w : Word, field w 0 8 = 0x11#8 → field w 22 10 = 0#10 →
    decode w = .ok (.jmpr (condOfBits (field w 8 4)) (field w 12 5) (field w 17 5))) ∧
  RaisesOnReservedBits 0x11#8 0xFFC00000#32

/-! ### MOV -/

/-- MOV between general registers: the value where the condition holds, nothing where it does not; the direction and
the latency bit have no effect (decision D38 for the latency bit, log 18). -/
def Obligations.MoveGeneralResult : Prop :=
  ∀ (d r : RegNum) (l : Bool) (c : Cond) (dir : Direction) (s : State),
    ∃ t, exec (.mov d r l c dir 0#4) s = .next t ∧
      (checkCondition s.flags c = true → HasResult d (s.readReg r) t ∧ Completes [d] s t) ∧
      (checkCondition s.flags c = false → Completes [] s t)

/-- MOV from each system register: the value it gives (decisions D8, D9, D10 for the registers the spec fixes
itself). -/
def Obligations.MoveFromSystemRegister : Prop :=
  MovReads 1#4 0#5 (fun s => BitVec.ofNat 32 (2 ^ 31 * s.abort.toNat + s.mask.toNat)) ∧
  MovReads 1#4 1#5 (fun s => s.intret1) ∧ MovReads 1#4 2#5 (fun s => s.intret2) ∧
  MovReads 1#4 3#5 (fun s => s.intret3) ∧
  (∀ j : Fin 4, MovReads 1#4 (BitVec.ofNat 5 (4 + j.val)) (fun s => s.ints.get j)) ∧
  (∀ j : Fin 4, MovReads 1#4 (BitVec.ofNat 5 (8 + j.val)) (fun s => s.intd.get j)) ∧
  MovReads 1#4 31#5 (fun s => BitVec.ofNat 32 (8 * s.inttab.toNat)) ∧
  (∀ k : RegNum, MovReads 2#4 k (fun s => s.io.get k.toFin)) ∧
  (∀ k : RegNum, MovReads 3#4 k (fun _ => 0#32)) ∧
  MovReads 4#4 30#5 (fun s => BitVec.ofNat 32 s.cpe.toNat) ∧
  MovReads 4#4 31#5 (fun s => BitVec.ofNat 32 s.plat.cpPresent.toNat)

/-- MOV to each system register: the values it accepts and what it then holds (decisions D8, D10, D11). -/
def Obligations.MoveToSystemRegister : Prop :=
  MovWrites 1#4 0#5 (fun _ v => v.toNat % 2 ^ 31 < 4)
    (fun s v => { s with mask := BitVec.ofNat 2 v.toNat, abort := decide (2 ^ 31 ≤ v.toNat) }) ∧
  MovWrites 1#4 1#5 (fun _ _ => True) (fun s v => { s with intret1 := v }) ∧
  MovWrites 1#4 2#5 (fun _ _ => True) (fun s v => { s with intret2 := v }) ∧
  MovWrites 1#4 3#5 (fun _ _ => True) (fun s v => { s with intret3 := v }) ∧
  (∀ j : Fin 4, MovWrites 1#4 (BitVec.ofNat 5 (4 + j.val)) (fun _ _ => True)
    (fun s v => { s with ints := s.ints.set j.val v j.isLt })) ∧
  (∀ j : Fin 4, MovWrites 1#4 (BitVec.ofNat 5 (8 + j.val)) (fun _ _ => True)
    (fun s v => { s with intd := s.intd.set j.val v j.isLt })) ∧
  MovWrites 1#4 31#5 (fun _ v => v.toNat % 8 = 0)
    (fun s v => { s with inttab := BitVec.ofNat 29 (v.toNat / 8) }) ∧
  (∀ k : RegNum, MovWrites 2#4 k (fun _ _ => True) (fun s v => { s with io := s.io.set k.toNat v k.isLt })) ∧
  MovWrites 4#4 30#5
    (fun s v => v.toNat < 256 ∧ ∀ n, n < 8 → v.getLsbD n = true → s.plat.cpPresent.getLsbD n = true)
    (fun s v => { s with cpe := BitVec.ofNat 8 v.toNat })

/-- MOV raises EX[2], whether or not its condition holds, for every register that is undefined, inaccessible or,
where it would be written, read-only (decision D33). -/
def Obligations.MoveAccessTraps : Prop :=
  ∀ (k : RegNum) (s : State),
    (12 ≤ k.toNat → k.toNat ≤ 30 → MovRaises .fromMap 1#4 k s ∧ MovRaises .toMap 1#4 k s) ∧
    MovRaises .toMap 3#4 k s ∧
    (8 ≤ k.toNat → k.toNat ≤ 29 → MovRaises .fromMap 4#4 k s ∧ MovRaises .toMap 4#4 k s) ∧
    MovRaises .toMap 4#4 31#5 s ∧
    (∀ n : BitVec 3, (s.cpe.getLsbD n.toNat = false ∨ s.plat.cpPresent.getLsbD n.toNat = false) →
      MovRaises .fromMap 4#4 (n.setWidth 5) s ∧ MovRaises .toMap 4#4 (n.setWidth 5) s) ∧
    (∀ m : BitVec 4, m = 5#4 ∨ m = 6#4 ∨ m = 7#4 → MovRaises .fromMap m k s ∧ MovRaises .toMap m k s) ∧
    (∀ n : BitVec 3, (s.cpe.getLsbD n.toNat = false ∨ (n, k) ∉ s.plat.cpRegs) →
      MovRaises .fromMap (8#4 + n.setWidth 4) k s ∧ MovRaises .toMap (8#4 + n.setWidth 4) k s)

/-- MOV from and to a coprocessor's control word or register that is accessible: the coprocessor is asked or told,
and an illegal value raises EX[4]. The value it gives is its next answer, or a free value (decision D21, log 23). -/
def Obligations.MoveCoprocessorRegister : Prop :=
  ∀ (m : BitVec 4) (n : BitVec 3) (k d : RegNum) (l : Bool) (c : Cond) (s : State),
    s.cpe.getLsbD n.toNat = true →
    ((m = 4#4 ∧ k = n.setWidth 5 ∧ s.plat.cpPresent.getLsbD n.toNat = true) ∨
      (m = 8#4 + n.setWidth 4 ∧ (n, k) ∈ s.plat.cpRegs)) →
    (checkCondition s.flags c = true →
      (∃ t, exec (.mov d k l c .fromMap m) s = .next t ∧
        let v := s.cpAnswers.headD (Config.cpValue s.log m k)
        HasResult d v t ∧ t.log = .cpRead m k v :: s.log ∧ t.cpAnswers = s.cpAnswers.tail ∧
          Completes [d] { s with log := t.log, cpAnswers := t.cpAnswers } t) ∧
      (s.cpValueValid m k (s.readReg d) = true → exec (.mov k d l c .toMap m) s =
        .next { s with pc := s.pc + 4#32, log := .cpWrite m k (s.readReg d) :: s.log }) ∧
      (s.cpValueValid m k (s.readReg d) = false →
        exec (.mov k d l c .toMap m) s = .next (s.raise .consistency))) ∧
    (checkCondition s.flags c = false →
      exec (.mov d k l c .fromMap m) s = .next { s with pc := s.pc + 4#32 } ∧
      exec (.mov k d l c .toMap m) s = .next { s with pc := s.pc + 4#32 })

/-! ### I/O transfers -/

/-- IN: the bits the port gives, fewer than the width allows none, enter at the top of the transfer register. The
bits are the next answer, or a free value, cut to `n` bits (decision D19, logs 7 and 24). -/
def Obligations.PortInResult : Prop :=
  ∀ (d : RegNum) (p : BitVec 8) (n : BitVec 5) (s : State), ∃ t bits, exec (.portIn d p n) s = .next t ∧
    bits.toNat = (s.portAnswers.headD (Config.portBits s.log p n)).toNat % 2 ^ n.toNat ∧
    (∀ k, k < 32 → (t.io.get d.toFin).getLsbD k =
      if k + n.toNat < 32 then (s.io.get d.toFin).getLsbD (k + n.toNat) else bits.getLsbD (k + n.toNat - 32)) ∧
    (∀ r : RegNum, r ≠ d → t.io.get r.toFin = s.io.get r.toFin) ∧
    t.log = .portRead p n bits :: s.log ∧ t.portAnswers = s.portAnswers.tail ∧
    Completes [] { s with io := t.io, log := t.log, portAnswers := t.portAnswers } t

/-- OUT: the low bits of the transfer register go to the port, the register moves down with zeros at the top
(decision D19, log 24). -/
def Obligations.PortOutResult : Prop :=
  ∀ (r : RegNum) (p : BitVec 8) (n : BitVec 5) (s : State), ∃ t bits, exec (.portOut r p n) s = .next t ∧
    bits.toNat = (s.io.get r.toFin).toNat % 2 ^ n.toNat ∧
    (t.io.get r.toFin).toNat = (s.io.get r.toFin).toNat / 2 ^ n.toNat ∧
    (∀ q : RegNum, q ≠ r → t.io.get q.toFin = s.io.get q.toFin) ∧
    t.log = .portWrite p n bits :: s.log ∧ Completes [] { s with io := t.io, log := t.log } t

/-! ### Flags, exchange, extend -/

/-- LDFLAGS: the flags as a number in the destination. STFLAGS: the five flags from the low bits of the register.
Which words they have, and EX[2] for a must-be-zero bit (decision D2, log 29). -/
def Obligations.LoadAndStoreFlagsResult : Prop :=
  (∀ (d : RegNum) (s : State), ∃ t, exec (.ldflags d) s = .next t ∧
    HasResult d (BitVec.ofNat 32 (s.flags.c.toNat + 2 * s.flags.v.toNat + 4 * s.flags.n.toNat +
      8 * s.flags.z.toNat + 16 * s.flags.p.toNat)) t ∧ Completes [d] s t) ∧
  (∀ (r : RegNum) (s : State), ∃ t, exec (.stflags r) s = .next t ∧
    t.flags = { c := (s.readReg r).getLsbD 0, v := (s.readReg r).getLsbD 1, n := (s.readReg r).getLsbD 2,
                z := (s.readReg r).getLsbD 3, p := (s.readReg r).getLsbD 4 } ∧
    t.pc = s.pc + 4#32 ∧ OnlyRegisters [] s t) ∧
  (∀ w : Word, field w 13 19 = 0#19 →
    (field w 0 8 = 0x18#8 → decode w = .ok (.ldflags (field w 8 5))) ∧
    (field w 0 8 = 0x19#8 → decode w = .ok (.stflags (field w 8 5)))) ∧
  RaisesOnReservedBits 0x18#8 0xFFFFE000#32 ∧ RaisesOnReservedBits 0x19#8 0xFFFFE000#32

/-- XVP: v and p exchanged, the other flags kept, two of them restore the flags; its only word, and EX[2] for any
other payload (both decision D2, log 29). -/
def Obligations.ExchangeFlagsResult : Prop :=
  (∀ s : State, ∃ t, exec .xvp s = .next t ∧
    t.flags = { s.flags with v := s.flags.p, p := s.flags.v } ∧ t.pc = s.pc + 4#32 ∧ OnlyRegisters [] s t) ∧
  (∀ s t u : State, exec .xvp s = .next t → exec .xvp t = .next u → u.flags = s.flags) ∧
  (∀ w : Word, decode w = .ok .xvp ↔ w = 0x0000001A#32) ∧
  RaisesOnReservedBits 0x1A#8 0xFFFFFF00#32

/-- XCHG: both registers get the other's old value where the condition holds, r0 staying 0, whatever the latency bit
(decision D38, log 18); which words it has, and EX[2] for a must-be-zero bit (decision D2, log 29). -/
def Obligations.ExchangeRegistersResult : Prop :=
  (∀ (a b : RegNum) (l : Bool) (c : Cond) (s : State), ∃ t, exec (.xchg a b l c) s = .next t ∧
    (checkCondition s.flags c = true →
      HasResult a (s.readReg b) t ∧ HasResult b (s.readReg a) t ∧ Completes [a, b] s t) ∧
    (checkCondition s.flags c = false → Completes [] s t)) ∧
  (∀ w : Word, field w 0 8 = 0x1C#8 → field w 18 2 = 0#2 → field w 25 7 = 0#7 →
    decode w = .ok (.xchg (field w 8 5) (field w 13 5) (bit w 20) (condOfBits (field w 21 4)))) ∧
  RaisesOnReservedBits 0x1C#8 0xFE0C0000#32

/-- EXT: the low bits, zeros or copies of the highest of them above; 0 for a width of 0 (decision D20, log 24). -/
def Obligations.ExtendResult : Prop :=
  ∀ (d r : RegNum) (x : ExtKind) (n : BitVec 5) (s : State), ∃ t v, exec (.ext d r x n) s = .next t ∧
    (∀ k, k < 32 → v.getLsbD k = if k < n.toNat then (s.readReg r).getLsbD k
      else (decide (x = .sign) && decide (n ≠ 0#5) && (s.readReg r).getLsbD (n.toNat - 1))) ∧
    HasResult d v t ∧ Completes [d] s t

/-! ### Coprocessors -/

/-- A coprocessor instruction, CPI, NCPI, CPIEF or NCPIEF, for a coprocessor that is not enabled raises
CPI_DISABLED_EXC and sends nothing; the parameter's default is EX[3] (decision D21, log 11). -/
def Obligations.DisabledCoprocessorRaises : Prop :=
  (∀ (i : Instr) (cp : BitVec 3) (fn : CpFunction) (s : State),
    (waitingForm i = some (cp, fn) ∨ nonWaitingForm i = some (cp, fn)) → s.cpe.getLsbD cp.toNat = false →
    exec i s = .next (s.raise s.plat.cpiDisabledExc)) ∧
  (∀ (e : SyncExc) (s : State), (s.raise e).log = s.log) ∧ Platform.bare.cpiDisabledExc = .unalignedBranch

/-- NCPI0 to NCPI7 and NCPI0EF to NCPI7EF for an enabled coprocessor: the function is handed over and nothing else
changes. -/
def Obligations.InvokeResult : Prop :=
  ∀ (i : Instr) (cp : BitVec 3) (fn : CpFunction) (s : State),
    nonWaitingForm i = some (cp, fn) → s.cpe.getLsbD cp.toNat = true →
    ∃ t, exec i s = .next t ∧ t.log = .cpExecute cp fn :: s.log ∧ Completes [] { s with log := t.log } t

/-- CPI0 to CPI7 and CPI0EF to CPI7EF for an enabled coprocessor: the function, the wait, the pulled error; with no
error, or with an error while m is below 2, nothing more; with an error and m of 2 or 3, EX[8 + cp] with the next
instruction's address in `intret2` (decisions D21, D36, log 21). -/
def Obligations.InvokeAndWaitResult : Prop :=
  ∀ (i : Instr) (cp : BitVec 3) (fn : CpFunction) (s : State),
    waitingForm i = some (cp, fn) → s.cpe.getLsbD cp.toNat = true →
    ∃ t err, exec i s = .next t ∧
      err = s.cpErrors.headD (Config.cpReportsError (.cpWait cp :: .cpExecute cp fn :: s.log) cp) ∧
      t.log = .cpPull cp err :: .cpWait cp :: .cpExecute cp fn :: s.log ∧ t.cpErrors = s.cpErrors.tail ∧
      ((err = false ∨ s.mask.toNat < 2) → Completes [] { s with log := t.log, cpErrors := t.cpErrors } t) ∧
      (∀ h, err = true → 2 ≤ s.mask.toNat → s.EntryHolds (8 + cp.toNat) h →
        InEventHandler h (s.pc + 4#32) { s with log := t.log, cpErrors := t.cpErrors } t)

/-! ### UND, PAUSE, HALT, STOP -/

/-- UND, either opcode, where EX[2] is not blocked and its entry is valid: the entry of EX[2] (decision D23). -/
def Obligations.UndefinedInstructionEntry : Prop :=
  ∀ (payload : BitVec 24) (h : Word) (s : State), s.mask ≠ 0#2 → s.EntryHolds 2 h →
    (∃ t, exec (.und00 payload) s = .next t ∧ InExceptionHandler h s.syncReturn s t) ∧
    (∃ t, exec (.undFF payload) s = .next t ∧ InExceptionHandler h s.syncReturn s t)

/-- PAUSE: only the pc advances, whatever `k` (decision D38, log 18); which words it has, and EX[2] for a must-be-zero
bit (decision D2, log 29). -/
def Obligations.PauseResult : Prop :=
  (∀ (k : BitVec 6) (s : State), exec (.pause k) s = .next { s with pc := s.pc + 4#32 }) ∧
  (∀ w : Word, field w 0 8 = 0x01#8 → field w 14 18 = 0#18 → decode w = .ok (.pause (field w 8 6))) ∧
  RaisesOnReservedBits 0x01#8 0xFFFFC000#32

/-- HALT and STOP: Status 2 and 3, the pc after the instruction, nothing else (decision D22); no other instruction
leaves Status 0. -/
def Obligations.HaltAndStopResult : Prop :=
  (∀ s : State,
    (∃ t, exec .halt s = .next t ∧ t.status = .halted ∧ Completes [] { s with status := t.status } t) ∧
    (∃ t, exec .stop s = .next t ∧ t.status = .stopped ∧ Completes [] { s with status := t.status } t)) ∧
  (∀ (i : Instr) (s t : State), exec i s = .next t → s.status = .executing → t.status ≠ .executing →
    i = .halt ∨ i = .stop)
end

