-- ==== Sys2Proof/Laws/Encoding.lean ====
section
/-! SUPPORT. Reading a field back from a word put together from fields. -/

namespace Sys2Proof

@[simp] theorem field_or (x y : Word) (lo n : Nat) : field (x ||| y) lo n = field x lo n ||| field y lo n := by
  ext j hj
  simp [field]

theorem field_put_same {n : Nat} (lo : Nat) (v : BitVec n) (h : lo + n ≤ 32) : field (put lo v) lo n = v := by
  ext j hj
  have h1 : lo + j < 32 := by omega
  simp [field, put, h1, BitVec.getLsbD_eq_getElem hj]

theorem field_put_other {m : Nat} (lo lo' n : Nat) (v : BitVec m) (h : lo + n ≤ lo' ∨ lo' + m ≤ lo) :
    field (put lo' v) lo n = 0#n := by
  ext j hj
  simp only [field, put, BitVec.getElem_extractLsb', BitVec.getLsbD_shiftLeft, BitVec.getLsbD_setWidth,
    BitVec.getElem_zero]
  by_cases h1 : lo + j < lo'
  · simp [h1]
  · rw [BitVec.getLsbD_of_ge v _ (by omega)]
    simp

@[simp] theorem bit_or (x y : Word) (k : Nat) : bit (x ||| y) k = (bit x k || bit y k) := by
  simp [bit]

theorem bit_putBit_same (k : Nat) (b : Bool) (h : k < 32) : bit (putBit k b) k = b := by
  simp [bit, putBit, put, h]

theorem bit_put_other {m : Nat} (k lo' : Nat) (v : BitVec m) (h : k < lo' ∨ lo' + m ≤ k) :
    bit (put lo' v) k = false := by
  simp only [bit, put, BitVec.getLsbD_shiftLeft, BitVec.getLsbD_setWidth]
  by_cases h1 : k < lo'
  · simp [h1]
  · rw [BitVec.getLsbD_of_ge v _ (by omega)]
    simp

theorem bit_putBit_other (k lo' : Nat) (b : Bool) (h : k ≠ lo') : bit (putBit lo' b) k = false :=
  bit_put_other k lo' _ (by omega)

theorem field_putBit_other (lo lo' n : Nat) (b : Bool) (h : lo + n ≤ lo' ∨ lo' + 1 ≤ lo) :
    field (putBit lo' b) lo n = 0#n :=
  field_put_other lo lo' n _ h

@[simp] theorem condOfBits_condToBits (c : Cond) : condOfBits (condToBits c) = c := by cases c <;> rfl

@[simp] theorem widthOfBits_widthToBits (w : WidthField) : widthOfBits (widthToBits w) = w := by cases w <;> rfl

@[simp] theorem modeOfBits_modeToBits (m : UpdateMode) : modeOfBits (modeToBits m) = m := by cases m <;> rfl

@[simp] theorem extKindOfBit_extKindToBit (x : ExtKind) : extKindOfBit (extKindToBit x) = x := by cases x <;> rfl

@[simp] theorem directionOfBit_directionToBit (d : Direction) : directionOfBit (directionToBit d) = d := by
  cases d <;> rfl

theorem condToBits_condOfBits : ∀ b : BitVec 4, condToBits (condOfBits b) = b := by decide

theorem widthToBits_widthOfBits : ∀ b : BitVec 2, widthToBits (widthOfBits b) = b := by decide

theorem modeToBits_modeOfBits : ∀ b : BitVec 2, modeToBits (modeOfBits b) = b := by decide

theorem extKindToBit_extKindOfBit (b : Bool) : extKindToBit (extKindOfBit b) = b := by cases b <;> rfl

theorem directionToBit_directionOfBit (b : Bool) : directionToBit (directionOfBit b) = b := by cases b <;> rfl

/-- The four bytes of a word give it back: what is stored is what is fetched. -/
theorem wordOfBytes_fields (w : Word) : wordOfBytes (field w 0 8) (field w 8 8) (field w 16 8) (field w 24 8) = w := by
  apply BitVec.eq_of_getLsbD_eq
  intro j hj
  simp only [wordOfBytes, field, BitVec.getLsbD_append, BitVec.getLsbD_extractLsb']
  by_cases h0 : j < 8
  · simp [h0]
  by_cases h1 : j < 16
  · simp [h0, show j - 8 < 8 by omega, show 8 + (j - 8) = j by omega]
  by_cases h2 : j < 24
  · simp [h0, show ¬ j - 8 < 8 by omega, show j - 8 - 8 < 8 by omega, show 16 + (j - 8 - 8) = j by omega]
  · simp [h0, show ¬ j - 8 < 8 by omega, show ¬ j - 8 - 8 < 8 by omega, show j - 8 - 8 - 8 < 8 by omega,
      show 24 + (j - 8 - 8 - 8) = j by omega]

end Sys2Proof
end

