-- ==== Sys2Proof/Laws/Memory.lean ====
section
/-! SUPPORT. Memory: reading after writing, and the canonical form. -/

namespace Sys2Proof.Machine

theorem Memory.read_filter_other (mem : Memory) (a x : Nat) (h : x ≠ a) :
    Memory.read (mem.filter (fun cell => cell.1 != a)) x = Memory.read mem x := by
  induction mem with
  | nil => rfl
  | cons cell rest ih =>
    obtain ⟨k, b⟩ := cell
    by_cases hk : k = a
    · subst hk
      have : ¬ k = x := fun e => h e.symm
      simp [Memory.read, this, ih]
    · by_cases hx : k = x
      · subst hx
        simp [Memory.read, hk]
      · simp [Memory.read, hk, hx, ih]

theorem Memory.read_filter_same (mem : Memory) (a : Nat) :
    Memory.read (mem.filter (fun cell => cell.1 != a)) a = unlistedByte := by
  induction mem with
  | nil => rfl
  | cons cell rest ih =>
    obtain ⟨k, b⟩ := cell
    by_cases hk : k = a <;> simp [Memory.read, hk, ih]

theorem Memory.read_insert (mem : Memory) (a x : Nat) (b : Byte) (h : ∀ cell ∈ mem, cell.1 ≠ a) :
    Memory.read (Memory.insert mem a b) x = if x = a then b else Memory.read mem x := by
  induction mem with
  | nil =>
    by_cases hx : x = a
    · simp [Memory.insert, Memory.read, hx]
    · have hx' : ¬ a = x := fun e => hx e.symm
      simp [Memory.insert, Memory.read, hx, hx']
  | cons cell rest ih =>
    obtain ⟨k, c⟩ := cell
    have hk : k ≠ a := h (k, c) (by simp)
    have ih' := ih (fun cell hc => h cell (by simp [hc]))
    unfold Memory.insert
    by_cases hx : x = a
    · subst hx
      split
      · simp [Memory.read]
      · simp [Memory.read, hk, ih']
    · have hx' : ¬ a = x := fun e => hx e.symm
      split
      · simp [Memory.read, hx']
      · by_cases hkx : k = x <;> simp [Memory.read, hx, hkx, ih']

/-- Everything a byte write does to what memory reads as, in any memory. -/
theorem Memory.read_write (mem : Memory) (a x : Nat) (b : Byte) :
    (mem.write a b).read x = if x = a then b else mem.read x := by
  unfold Memory.write
  by_cases hb : b = unlistedByte
  · subst hb
    by_cases hx : x = a
    · subst hx
      simp [Memory.read_filter_same]
    · simp [hx, Memory.read_filter_other mem a x hx]
  · simp only [hb, if_false]
    rw [Memory.read_insert _ a x b (by simp)]
    by_cases hx : x = a
    · simp [hx]
    · simp [hx, Memory.read_filter_other mem a x hx]

theorem Memory.wf_cons (a : Nat) (b : Byte) (rest : Memory) :
    Memory.wf ((a, b) :: rest) = true ↔
      a < 2 ^ 32 ∧ b ≠ unlistedByte ∧ (∀ cell ∈ rest, a < cell.1) ∧ Memory.wf rest = true := by
  simp [Memory.wf, and_assoc]

theorem Memory.wf_filter (mem : Memory) (a : Nat) (h : mem.wf = true) :
    Memory.wf (mem.filter (fun cell => cell.1 != a)) = true := by
  induction mem with
  | nil => rfl
  | cons cell rest ih =>
    obtain ⟨k, b⟩ := cell
    obtain ⟨h1, h2, h3, h4⟩ := (Memory.wf_cons k b rest).1 h
    by_cases hk : k = a
    · simp [hk, ih h4]
    · simp only [List.filter_cons, bne_iff_ne, ne_eq, hk, not_false_eq_true, if_true]
      rw [Memory.wf_cons]
      exact ⟨h1, h2, fun cell hc => h3 cell (List.mem_filter.1 hc).1, ih h4⟩

theorem Memory.mem_insert (mem : Memory) (a : Nat) (b : Byte) (cell : Host.Cell)
    (h : cell ∈ Memory.insert mem a b) : cell = (a, b) ∨ cell ∈ mem := by
  induction mem with
  | nil => simpa [Memory.insert] using h
  | cons head rest ih =>
    obtain ⟨k, c⟩ := head
    unfold Memory.insert at h
    split at h
    · simpa using h
    · rcases List.mem_cons.1 h with h | h
      · simp [h]
      · rcases ih h with h | h <;> simp [h]

theorem Memory.wf_insert (mem : Memory) (a : Nat) (b : Byte) (h : mem.wf = true) (ha : a < 2 ^ 32)
    (hb : b ≠ unlistedByte) (hn : ∀ cell ∈ mem, cell.1 ≠ a) : Memory.wf (Memory.insert mem a b) = true := by
  induction mem with
  | nil => simp [Memory.insert, Memory.wf, hb]; omega
  | cons head rest ih =>
    obtain ⟨k, c⟩ := head
    obtain ⟨h1, h2, h3, h4⟩ := (Memory.wf_cons k c rest).1 h
    have hk : k ≠ a := hn (k, c) (by simp)
    unfold Memory.insert
    split
    · rename_i hlt
      rw [Memory.wf_cons]
      refine ⟨ha, hb, ?_, h⟩
      intro cell hc
      rcases List.mem_cons.1 hc with hc | hc
      · simp [hc, hlt]
      · exact Nat.lt_trans hlt (h3 cell hc)
    · rename_i hlt
      rw [Memory.wf_cons]
      refine ⟨h1, h2, ?_, ih h4 (fun cell hc => hn cell (by simp [hc]))⟩
      intro cell hc
      rcases Memory.mem_insert rest a b cell hc with hc | hc
      · subst hc
        show k < a
        omega
      · exact h3 cell hc

/-- A byte write keeps the canonical form. -/
theorem Memory.wf_write (mem : Memory) (a : Nat) (b : Byte) (h : mem.wf = true) (ha : a < 2 ^ 32) :
    (mem.write a b).wf = true := by
  unfold Memory.write
  by_cases hb : b = unlistedByte
  · simp [hb, Memory.wf_filter mem a h]
  · simp only [hb, if_false]
    exact Memory.wf_insert _ a b (Memory.wf_filter mem a h) ha hb (by simp)

/-- A store keeps the canonical form. -/
theorem wf_memWrite (mem : Memory) (addr : Word) (w : Width) (v : Word) (h : mem.wf = true) :
    (memWrite mem addr w v).wf = true := by
  cases w <;> simp only [memWrite]
  · exact Memory.wf_write _ _ _ h (BitVec.isLt _)
  · exact Memory.wf_write _ _ _ (Memory.wf_write _ _ _ h (BitVec.isLt _)) (BitVec.isLt _)
  · exact Memory.wf_write _ _ _ (Memory.wf_write _ _ _ (Memory.wf_write _ _ _ (Memory.wf_write _ _ _ h
      (BitVec.isLt _)) (BitVec.isLt _)) (BitVec.isLt _)) (BitVec.isLt _)

/-- A store leaves every other byte (20_memory.md R75). -/
theorem read_memWrite_other (mem : Memory) (addr : Word) (w : Width) (v : Word) (x : Nat)
    (h : ∀ k, k < widthBytes w → x ≠ (addr + BitVec.ofNat 32 k).toNat) :
    (memWrite mem addr w v).read x = mem.read x := by
  have h0 : x ≠ addr.toNat := by simpa using h 0 (by cases w <;> decide)
  cases w
  · simp [memWrite, Memory.read_write, h0]
  · have h1 : x ≠ (addr + 1#32).toNat := h 1 (by decide)
    simp only [memWrite, Memory.read_write, h0, h1, if_false]
  · have h1 : x ≠ (addr + 1#32).toNat := h 1 (by decide)
    have h2 : x ≠ (addr + 2#32).toNat := h 2 (by decide)
    have h3 : x ≠ (addr + 3#32).toNat := h 3 (by decide)
    simp only [memWrite, Memory.read_write, h0, h1, h2, h3, if_false]

theorem addr_add_ne (addr : Word) (j k : Nat) (hj : j < 4) (hk : k < 4) (h : j ≠ k) :
    (addr + BitVec.ofNat 32 j).toNat ≠ (addr + BitVec.ofNat 32 k).toNat := by
  intro e
  have e' := BitVec.eq_of_toNat_eq e
  have e'' : BitVec.ofNat 32 j = BitVec.ofNat 32 k := by
    have := congrArg (fun x => x - addr) e'
    simpa [BitVec.add_comm addr] using this
  have := congrArg BitVec.toNat e''
  simp only [BitVec.toNat_ofNat] at this
  omega

/-- Byte `k` of a stored value is at `addr + k` (R71, R75). -/
theorem read_memWrite_byte (mem : Memory) (addr : Word) (w : Width) (v : Word) (k : Nat) (h : k < widthBytes w) :
    (memWrite mem addr w v).read (addr + BitVec.ofNat 32 k).toNat = field v (8 * k) 8 := by
  have e0 : addr.toNat = (addr + BitVec.ofNat 32 0).toNat := by simp
  have n : ∀ i j, i < 4 → j < 4 → i ≠ j →
      ((addr + BitVec.ofNat 32 i).toNat = (addr + BitVec.ofNat 32 j).toNat) = False :=
    fun i j hi hj hij => eq_false (addr_add_ne addr i j hi hj hij)
  cases w <;> simp only [widthBytes] at h
  · obtain rfl : k = 0 := by omega
    simp [memWrite, Memory.read_write]
  · simp only [memWrite, Memory.read_write, e0]
    obtain rfl | rfl : k = 0 ∨ k = 1 := by omega
    · rw [if_neg (addr_add_ne addr 0 1 (by omega) (by omega) (by omega)), if_pos rfl]
    · rw [if_pos rfl]
  · simp only [memWrite, Memory.read_write, e0]
    obtain rfl | rfl | rfl | rfl : k = 0 ∨ k = 1 ∨ k = 2 ∨ k = 3 := by omega
    · rw [if_neg (addr_add_ne addr 0 3 (by omega) (by omega) (by omega)),
        if_neg (addr_add_ne addr 0 2 (by omega) (by omega) (by omega)),
        if_neg (addr_add_ne addr 0 1 (by omega) (by omega) (by omega)), if_pos rfl]
    · rw [if_neg (addr_add_ne addr 1 3 (by omega) (by omega) (by omega)),
        if_neg (addr_add_ne addr 1 2 (by omega) (by omega) (by omega)), if_pos rfl]
    · rw [if_neg (addr_add_ne addr 2 3 (by omega) (by omega) (by omega)), if_pos rfl]
    · rw [if_pos rfl]

/-- A word that was stored is read back, in any memory. -/
theorem memRead_memWrite_word (mem : Memory) (addr : Word) (v : Word) :
    memRead (memWrite mem addr .word v) addr .word = v := by
  have h := fun k hk => read_memWrite_byte mem addr .word v k hk
  have h0 := h 0 (by decide)
  have h1 := h 1 (by decide)
  have h2 := h 2 (by decide)
  have h3 := h 3 (by decide)
  have e0 : (addr + BitVec.ofNat 32 0).toNat = addr.toNat := by simp
  rw [e0] at h0
  simp only [memRead]
  rw [h0, h1, h2, h3]
  exact wordOfBytes_fields v

end Sys2Proof.Machine
end

