-- ==== Sys2Proof/Laws/State.lean ====
section
/-! SUPPORT. One lemma per field per update of the state, so that no later proof unfolds a record update. -/

namespace Sys2Proof.Machine

/-! ### writeReg -/

@[simp] theorem State.writeReg_pc (s : State) (r : RegNum) (v : Word) : (s.writeReg r v).pc = s.pc := by unfold State.writeReg; split <;> rfl
@[simp] theorem State.writeReg_flags (s : State) (r : RegNum) (v : Word) : (s.writeReg r v).flags = s.flags := by unfold State.writeReg; split <;> rfl
@[simp] theorem State.writeReg_status (s : State) (r : RegNum) (v : Word) : (s.writeReg r v).status = s.status := by unfold State.writeReg; split <;> rfl
@[simp] theorem State.writeReg_mask (s : State) (r : RegNum) (v : Word) : (s.writeReg r v).mask = s.mask := by unfold State.writeReg; split <;> rfl
@[simp] theorem State.writeReg_abort (s : State) (r : RegNum) (v : Word) : (s.writeReg r v).abort = s.abort := by unfold State.writeReg; split <;> rfl
@[simp] theorem State.writeReg_intret1 (s : State) (r : RegNum) (v : Word) : (s.writeReg r v).intret1 = s.intret1 := by unfold State.writeReg; split <;> rfl
@[simp] theorem State.writeReg_intret2 (s : State) (r : RegNum) (v : Word) : (s.writeReg r v).intret2 = s.intret2 := by unfold State.writeReg; split <;> rfl
@[simp] theorem State.writeReg_intret3 (s : State) (r : RegNum) (v : Word) : (s.writeReg r v).intret3 = s.intret3 := by unfold State.writeReg; split <;> rfl
@[simp] theorem State.writeReg_ints (s : State) (r : RegNum) (v : Word) : (s.writeReg r v).ints = s.ints := by unfold State.writeReg; split <;> rfl
@[simp] theorem State.writeReg_intd (s : State) (r : RegNum) (v : Word) : (s.writeReg r v).intd = s.intd := by unfold State.writeReg; split <;> rfl
@[simp] theorem State.writeReg_inttab (s : State) (r : RegNum) (v : Word) : (s.writeReg r v).inttab = s.inttab := by unfold State.writeReg; split <;> rfl
@[simp] theorem State.writeReg_io (s : State) (r : RegNum) (v : Word) : (s.writeReg r v).io = s.io := by unfold State.writeReg; split <;> rfl
@[simp] theorem State.writeReg_cpe (s : State) (r : RegNum) (v : Word) : (s.writeReg r v).cpe = s.cpe := by unfold State.writeReg; split <;> rfl
@[simp] theorem State.writeReg_irqBuffer (s : State) (r : RegNum) (v : Word) : (s.writeReg r v).irqBuffer = s.irqBuffer := by unfold State.writeReg; split <;> rfl
@[simp] theorem State.writeReg_mem (s : State) (r : RegNum) (v : Word) : (s.writeReg r v).mem = s.mem := by unfold State.writeReg; split <;> rfl
@[simp] theorem State.writeReg_plat (s : State) (r : RegNum) (v : Word) : (s.writeReg r v).plat = s.plat := by unfold State.writeReg; split <;> rfl
@[simp] theorem State.writeReg_inputs (s : State) (r : RegNum) (v : Word) : (s.writeReg r v).inputs = s.inputs := by unfold State.writeReg; split <;> rfl
@[simp] theorem State.writeReg_portAnswers (s : State) (r : RegNum) (v : Word) : (s.writeReg r v).portAnswers = s.portAnswers := by unfold State.writeReg; split <;> rfl
@[simp] theorem State.writeReg_cpAnswers (s : State) (r : RegNum) (v : Word) : (s.writeReg r v).cpAnswers = s.cpAnswers := by unfold State.writeReg; split <;> rfl
@[simp] theorem State.writeReg_cpErrors (s : State) (r : RegNum) (v : Word) : (s.writeReg r v).cpErrors = s.cpErrors := by unfold State.writeReg; split <;> rfl
@[simp] theorem State.writeReg_log (s : State) (r : RegNum) (v : Word) : (s.writeReg r v).log = s.log := by unfold State.writeReg; split <;> rfl
@[simp] theorem State.writeReg_resets (s : State) (r : RegNum) (v : Word) : (s.writeReg r v).resets = s.resets := by unfold State.writeReg; split <;> rfl

/-! ### advance -/

@[simp] theorem State.advance_regs (s : State) : s.advance.regs = s.regs := rfl
@[simp] theorem State.advance_pc (s : State) : s.advance.pc = s.pc + 4#32 := rfl
@[simp] theorem State.advance_flags (s : State) : s.advance.flags = s.flags := rfl
@[simp] theorem State.advance_status (s : State) : s.advance.status = s.status := rfl
@[simp] theorem State.advance_mask (s : State) : s.advance.mask = s.mask := rfl
@[simp] theorem State.advance_abort (s : State) : s.advance.abort = s.abort := rfl
@[simp] theorem State.advance_intret1 (s : State) : s.advance.intret1 = s.intret1 := rfl
@[simp] theorem State.advance_intret2 (s : State) : s.advance.intret2 = s.intret2 := rfl
@[simp] theorem State.advance_intret3 (s : State) : s.advance.intret3 = s.intret3 := rfl
@[simp] theorem State.advance_ints (s : State) : s.advance.ints = s.ints := rfl
@[simp] theorem State.advance_intd (s : State) : s.advance.intd = s.intd := rfl
@[simp] theorem State.advance_inttab (s : State) : s.advance.inttab = s.inttab := rfl
@[simp] theorem State.advance_io (s : State) : s.advance.io = s.io := rfl
@[simp] theorem State.advance_cpe (s : State) : s.advance.cpe = s.cpe := rfl
@[simp] theorem State.advance_irqBuffer (s : State) : s.advance.irqBuffer = s.irqBuffer := rfl
@[simp] theorem State.advance_mem (s : State) : s.advance.mem = s.mem := rfl
@[simp] theorem State.advance_plat (s : State) : s.advance.plat = s.plat := rfl
@[simp] theorem State.advance_inputs (s : State) : s.advance.inputs = s.inputs := rfl
@[simp] theorem State.advance_portAnswers (s : State) : s.advance.portAnswers = s.portAnswers := rfl
@[simp] theorem State.advance_cpAnswers (s : State) : s.advance.cpAnswers = s.cpAnswers := rfl
@[simp] theorem State.advance_cpErrors (s : State) : s.advance.cpErrors = s.cpErrors := rfl
@[simp] theorem State.advance_log (s : State) : s.advance.log = s.log := rfl
@[simp] theorem State.advance_resets (s : State) : s.advance.resets = s.resets := rfl

/-! ### record -/

@[simp] theorem State.record_regs (s : State) (c : EnvCall) : (s.record c).regs = s.regs := rfl
@[simp] theorem State.record_pc (s : State) (c : EnvCall) : (s.record c).pc = s.pc := rfl
@[simp] theorem State.record_flags (s : State) (c : EnvCall) : (s.record c).flags = s.flags := rfl
@[simp] theorem State.record_status (s : State) (c : EnvCall) : (s.record c).status = s.status := rfl
@[simp] theorem State.record_mask (s : State) (c : EnvCall) : (s.record c).mask = s.mask := rfl
@[simp] theorem State.record_abort (s : State) (c : EnvCall) : (s.record c).abort = s.abort := rfl
@[simp] theorem State.record_intret1 (s : State) (c : EnvCall) : (s.record c).intret1 = s.intret1 := rfl
@[simp] theorem State.record_intret2 (s : State) (c : EnvCall) : (s.record c).intret2 = s.intret2 := rfl
@[simp] theorem State.record_intret3 (s : State) (c : EnvCall) : (s.record c).intret3 = s.intret3 := rfl
@[simp] theorem State.record_ints (s : State) (c : EnvCall) : (s.record c).ints = s.ints := rfl
@[simp] theorem State.record_intd (s : State) (c : EnvCall) : (s.record c).intd = s.intd := rfl
@[simp] theorem State.record_inttab (s : State) (c : EnvCall) : (s.record c).inttab = s.inttab := rfl
@[simp] theorem State.record_io (s : State) (c : EnvCall) : (s.record c).io = s.io := rfl
@[simp] theorem State.record_cpe (s : State) (c : EnvCall) : (s.record c).cpe = s.cpe := rfl
@[simp] theorem State.record_irqBuffer (s : State) (c : EnvCall) : (s.record c).irqBuffer = s.irqBuffer := rfl
@[simp] theorem State.record_mem (s : State) (c : EnvCall) : (s.record c).mem = s.mem := rfl
@[simp] theorem State.record_plat (s : State) (c : EnvCall) : (s.record c).plat = s.plat := rfl
@[simp] theorem State.record_inputs (s : State) (c : EnvCall) : (s.record c).inputs = s.inputs := rfl
@[simp] theorem State.record_portAnswers (s : State) (c : EnvCall) : (s.record c).portAnswers = s.portAnswers := rfl
@[simp] theorem State.record_cpAnswers (s : State) (c : EnvCall) : (s.record c).cpAnswers = s.cpAnswers := rfl
@[simp] theorem State.record_cpErrors (s : State) (c : EnvCall) : (s.record c).cpErrors = s.cpErrors := rfl
@[simp] theorem State.record_log (s : State) (c : EnvCall) : (s.record c).log = c :: s.log := rfl
@[simp] theorem State.record_resets (s : State) (c : EnvCall) : (s.record c).resets = s.resets := rfl

/-! ### portRead -/

@[simp] theorem State.portRead_regs (s : State) (p : BitVec 8) (n : BitVec 5) : (s.portRead p n).regs = s.regs := rfl
@[simp] theorem State.portRead_pc (s : State) (p : BitVec 8) (n : BitVec 5) : (s.portRead p n).pc = s.pc := rfl
@[simp] theorem State.portRead_flags (s : State) (p : BitVec 8) (n : BitVec 5) : (s.portRead p n).flags = s.flags := rfl
@[simp] theorem State.portRead_status (s : State) (p : BitVec 8) (n : BitVec 5) : (s.portRead p n).status = s.status := rfl
@[simp] theorem State.portRead_mask (s : State) (p : BitVec 8) (n : BitVec 5) : (s.portRead p n).mask = s.mask := rfl
@[simp] theorem State.portRead_abort (s : State) (p : BitVec 8) (n : BitVec 5) : (s.portRead p n).abort = s.abort := rfl
@[simp] theorem State.portRead_intret1 (s : State) (p : BitVec 8) (n : BitVec 5) : (s.portRead p n).intret1 = s.intret1 := rfl
@[simp] theorem State.portRead_intret2 (s : State) (p : BitVec 8) (n : BitVec 5) : (s.portRead p n).intret2 = s.intret2 := rfl
@[simp] theorem State.portRead_intret3 (s : State) (p : BitVec 8) (n : BitVec 5) : (s.portRead p n).intret3 = s.intret3 := rfl
@[simp] theorem State.portRead_ints (s : State) (p : BitVec 8) (n : BitVec 5) : (s.portRead p n).ints = s.ints := rfl
@[simp] theorem State.portRead_intd (s : State) (p : BitVec 8) (n : BitVec 5) : (s.portRead p n).intd = s.intd := rfl
@[simp] theorem State.portRead_inttab (s : State) (p : BitVec 8) (n : BitVec 5) : (s.portRead p n).inttab = s.inttab := rfl
@[simp] theorem State.portRead_io (s : State) (p : BitVec 8) (n : BitVec 5) : (s.portRead p n).io = s.io := rfl
@[simp] theorem State.portRead_cpe (s : State) (p : BitVec 8) (n : BitVec 5) : (s.portRead p n).cpe = s.cpe := rfl
@[simp] theorem State.portRead_irqBuffer (s : State) (p : BitVec 8) (n : BitVec 5) : (s.portRead p n).irqBuffer = s.irqBuffer := rfl
@[simp] theorem State.portRead_mem (s : State) (p : BitVec 8) (n : BitVec 5) : (s.portRead p n).mem = s.mem := rfl
@[simp] theorem State.portRead_plat (s : State) (p : BitVec 8) (n : BitVec 5) : (s.portRead p n).plat = s.plat := rfl
@[simp] theorem State.portRead_inputs (s : State) (p : BitVec 8) (n : BitVec 5) : (s.portRead p n).inputs = s.inputs := rfl
@[simp] theorem State.portRead_portAnswers (s : State) (p : BitVec 8) (n : BitVec 5) : (s.portRead p n).portAnswers = s.portAnswers.tail := rfl
@[simp] theorem State.portRead_cpAnswers (s : State) (p : BitVec 8) (n : BitVec 5) : (s.portRead p n).cpAnswers = s.cpAnswers := rfl
@[simp] theorem State.portRead_cpErrors (s : State) (p : BitVec 8) (n : BitVec 5) : (s.portRead p n).cpErrors = s.cpErrors := rfl
@[simp] theorem State.portRead_log (s : State) (p : BitVec 8) (n : BitVec 5) : (s.portRead p n).log = .portRead p n (s.portBits p n) :: s.log := rfl
@[simp] theorem State.portRead_resets (s : State) (p : BitVec 8) (n : BitVec 5) : (s.portRead p n).resets = s.resets := rfl

/-! ### portWrite -/

@[simp] theorem State.portWrite_regs (s : State) (p : BitVec 8) (n : BitVec 5) (bits : Word) : (s.portWrite p n bits).regs = s.regs := rfl
@[simp] theorem State.portWrite_pc (s : State) (p : BitVec 8) (n : BitVec 5) (bits : Word) : (s.portWrite p n bits).pc = s.pc := rfl
@[simp] theorem State.portWrite_flags (s : State) (p : BitVec 8) (n : BitVec 5) (bits : Word) : (s.portWrite p n bits).flags = s.flags := rfl
@[simp] theorem State.portWrite_status (s : State) (p : BitVec 8) (n : BitVec 5) (bits : Word) : (s.portWrite p n bits).status = s.status := rfl
@[simp] theorem State.portWrite_mask (s : State) (p : BitVec 8) (n : BitVec 5) (bits : Word) : (s.portWrite p n bits).mask = s.mask := rfl
@[simp] theorem State.portWrite_abort (s : State) (p : BitVec 8) (n : BitVec 5) (bits : Word) : (s.portWrite p n bits).abort = s.abort := rfl
@[simp] theorem State.portWrite_intret1 (s : State) (p : BitVec 8) (n : BitVec 5) (bits : Word) : (s.portWrite p n bits).intret1 = s.intret1 := rfl
@[simp] theorem State.portWrite_intret2 (s : State) (p : BitVec 8) (n : BitVec 5) (bits : Word) : (s.portWrite p n bits).intret2 = s.intret2 := rfl
@[simp] theorem State.portWrite_intret3 (s : State) (p : BitVec 8) (n : BitVec 5) (bits : Word) : (s.portWrite p n bits).intret3 = s.intret3 := rfl
@[simp] theorem State.portWrite_ints (s : State) (p : BitVec 8) (n : BitVec 5) (bits : Word) : (s.portWrite p n bits).ints = s.ints := rfl
@[simp] theorem State.portWrite_intd (s : State) (p : BitVec 8) (n : BitVec 5) (bits : Word) : (s.portWrite p n bits).intd = s.intd := rfl
@[simp] theorem State.portWrite_inttab (s : State) (p : BitVec 8) (n : BitVec 5) (bits : Word) : (s.portWrite p n bits).inttab = s.inttab := rfl
@[simp] theorem State.portWrite_io (s : State) (p : BitVec 8) (n : BitVec 5) (bits : Word) : (s.portWrite p n bits).io = s.io := rfl
@[simp] theorem State.portWrite_cpe (s : State) (p : BitVec 8) (n : BitVec 5) (bits : Word) : (s.portWrite p n bits).cpe = s.cpe := rfl
@[simp] theorem State.portWrite_irqBuffer (s : State) (p : BitVec 8) (n : BitVec 5) (bits : Word) : (s.portWrite p n bits).irqBuffer = s.irqBuffer := rfl
@[simp] theorem State.portWrite_mem (s : State) (p : BitVec 8) (n : BitVec 5) (bits : Word) : (s.portWrite p n bits).mem = s.mem := rfl
@[simp] theorem State.portWrite_plat (s : State) (p : BitVec 8) (n : BitVec 5) (bits : Word) : (s.portWrite p n bits).plat = s.plat := rfl
@[simp] theorem State.portWrite_inputs (s : State) (p : BitVec 8) (n : BitVec 5) (bits : Word) : (s.portWrite p n bits).inputs = s.inputs := rfl
@[simp] theorem State.portWrite_portAnswers (s : State) (p : BitVec 8) (n : BitVec 5) (bits : Word) : (s.portWrite p n bits).portAnswers = s.portAnswers := rfl
@[simp] theorem State.portWrite_cpAnswers (s : State) (p : BitVec 8) (n : BitVec 5) (bits : Word) : (s.portWrite p n bits).cpAnswers = s.cpAnswers := rfl
@[simp] theorem State.portWrite_cpErrors (s : State) (p : BitVec 8) (n : BitVec 5) (bits : Word) : (s.portWrite p n bits).cpErrors = s.cpErrors := rfl
@[simp] theorem State.portWrite_log (s : State) (p : BitVec 8) (n : BitVec 5) (bits : Word) : (s.portWrite p n bits).log = .portWrite p n bits :: s.log := rfl
@[simp] theorem State.portWrite_resets (s : State) (p : BitVec 8) (n : BitVec 5) (bits : Word) : (s.portWrite p n bits).resets = s.resets := rfl

/-! ### cpRead -/

@[simp] theorem State.cpRead_regs (s : State) (m : BitVec 4) (k : RegNum) : (s.cpRead m k).regs = s.regs := rfl
@[simp] theorem State.cpRead_pc (s : State) (m : BitVec 4) (k : RegNum) : (s.cpRead m k).pc = s.pc := rfl
@[simp] theorem State.cpRead_flags (s : State) (m : BitVec 4) (k : RegNum) : (s.cpRead m k).flags = s.flags := rfl
@[simp] theorem State.cpRead_status (s : State) (m : BitVec 4) (k : RegNum) : (s.cpRead m k).status = s.status := rfl
@[simp] theorem State.cpRead_mask (s : State) (m : BitVec 4) (k : RegNum) : (s.cpRead m k).mask = s.mask := rfl
@[simp] theorem State.cpRead_abort (s : State) (m : BitVec 4) (k : RegNum) : (s.cpRead m k).abort = s.abort := rfl
@[simp] theorem State.cpRead_intret1 (s : State) (m : BitVec 4) (k : RegNum) : (s.cpRead m k).intret1 = s.intret1 := rfl
@[simp] theorem State.cpRead_intret2 (s : State) (m : BitVec 4) (k : RegNum) : (s.cpRead m k).intret2 = s.intret2 := rfl
@[simp] theorem State.cpRead_intret3 (s : State) (m : BitVec 4) (k : RegNum) : (s.cpRead m k).intret3 = s.intret3 := rfl
@[simp] theorem State.cpRead_ints (s : State) (m : BitVec 4) (k : RegNum) : (s.cpRead m k).ints = s.ints := rfl
@[simp] theorem State.cpRead_intd (s : State) (m : BitVec 4) (k : RegNum) : (s.cpRead m k).intd = s.intd := rfl
@[simp] theorem State.cpRead_inttab (s : State) (m : BitVec 4) (k : RegNum) : (s.cpRead m k).inttab = s.inttab := rfl
@[simp] theorem State.cpRead_io (s : State) (m : BitVec 4) (k : RegNum) : (s.cpRead m k).io = s.io := rfl
@[simp] theorem State.cpRead_cpe (s : State) (m : BitVec 4) (k : RegNum) : (s.cpRead m k).cpe = s.cpe := rfl
@[simp] theorem State.cpRead_irqBuffer (s : State) (m : BitVec 4) (k : RegNum) : (s.cpRead m k).irqBuffer = s.irqBuffer := rfl
@[simp] theorem State.cpRead_mem (s : State) (m : BitVec 4) (k : RegNum) : (s.cpRead m k).mem = s.mem := rfl
@[simp] theorem State.cpRead_plat (s : State) (m : BitVec 4) (k : RegNum) : (s.cpRead m k).plat = s.plat := rfl
@[simp] theorem State.cpRead_inputs (s : State) (m : BitVec 4) (k : RegNum) : (s.cpRead m k).inputs = s.inputs := rfl
@[simp] theorem State.cpRead_portAnswers (s : State) (m : BitVec 4) (k : RegNum) : (s.cpRead m k).portAnswers = s.portAnswers := rfl
@[simp] theorem State.cpRead_cpAnswers (s : State) (m : BitVec 4) (k : RegNum) : (s.cpRead m k).cpAnswers = s.cpAnswers.tail := rfl
@[simp] theorem State.cpRead_cpErrors (s : State) (m : BitVec 4) (k : RegNum) : (s.cpRead m k).cpErrors = s.cpErrors := rfl
@[simp] theorem State.cpRead_log (s : State) (m : BitVec 4) (k : RegNum) : (s.cpRead m k).log = .cpRead m k (s.cpValue m k) :: s.log := rfl
@[simp] theorem State.cpRead_resets (s : State) (m : BitVec 4) (k : RegNum) : (s.cpRead m k).resets = s.resets := rfl

/-! ### cpWrite -/

@[simp] theorem State.cpWrite_regs (s : State) (m : BitVec 4) (k : RegNum) (v : Word) : (s.cpWrite m k v).regs = s.regs := rfl
@[simp] theorem State.cpWrite_pc (s : State) (m : BitVec 4) (k : RegNum) (v : Word) : (s.cpWrite m k v).pc = s.pc := rfl
@[simp] theorem State.cpWrite_flags (s : State) (m : BitVec 4) (k : RegNum) (v : Word) : (s.cpWrite m k v).flags = s.flags := rfl
@[simp] theorem State.cpWrite_status (s : State) (m : BitVec 4) (k : RegNum) (v : Word) : (s.cpWrite m k v).status = s.status := rfl
@[simp] theorem State.cpWrite_mask (s : State) (m : BitVec 4) (k : RegNum) (v : Word) : (s.cpWrite m k v).mask = s.mask := rfl
@[simp] theorem State.cpWrite_abort (s : State) (m : BitVec 4) (k : RegNum) (v : Word) : (s.cpWrite m k v).abort = s.abort := rfl
@[simp] theorem State.cpWrite_intret1 (s : State) (m : BitVec 4) (k : RegNum) (v : Word) : (s.cpWrite m k v).intret1 = s.intret1 := rfl
@[simp] theorem State.cpWrite_intret2 (s : State) (m : BitVec 4) (k : RegNum) (v : Word) : (s.cpWrite m k v).intret2 = s.intret2 := rfl
@[simp] theorem State.cpWrite_intret3 (s : State) (m : BitVec 4) (k : RegNum) (v : Word) : (s.cpWrite m k v).intret3 = s.intret3 := rfl
@[simp] theorem State.cpWrite_ints (s : State) (m : BitVec 4) (k : RegNum) (v : Word) : (s.cpWrite m k v).ints = s.ints := rfl
@[simp] theorem State.cpWrite_intd (s : State) (m : BitVec 4) (k : RegNum) (v : Word) : (s.cpWrite m k v).intd = s.intd := rfl
@[simp] theorem State.cpWrite_inttab (s : State) (m : BitVec 4) (k : RegNum) (v : Word) : (s.cpWrite m k v).inttab = s.inttab := rfl
@[simp] theorem State.cpWrite_io (s : State) (m : BitVec 4) (k : RegNum) (v : Word) : (s.cpWrite m k v).io = s.io := rfl
@[simp] theorem State.cpWrite_cpe (s : State) (m : BitVec 4) (k : RegNum) (v : Word) : (s.cpWrite m k v).cpe = s.cpe := rfl
@[simp] theorem State.cpWrite_irqBuffer (s : State) (m : BitVec 4) (k : RegNum) (v : Word) : (s.cpWrite m k v).irqBuffer = s.irqBuffer := rfl
@[simp] theorem State.cpWrite_mem (s : State) (m : BitVec 4) (k : RegNum) (v : Word) : (s.cpWrite m k v).mem = s.mem := rfl
@[simp] theorem State.cpWrite_plat (s : State) (m : BitVec 4) (k : RegNum) (v : Word) : (s.cpWrite m k v).plat = s.plat := rfl
@[simp] theorem State.cpWrite_inputs (s : State) (m : BitVec 4) (k : RegNum) (v : Word) : (s.cpWrite m k v).inputs = s.inputs := rfl
@[simp] theorem State.cpWrite_portAnswers (s : State) (m : BitVec 4) (k : RegNum) (v : Word) : (s.cpWrite m k v).portAnswers = s.portAnswers := rfl
@[simp] theorem State.cpWrite_cpAnswers (s : State) (m : BitVec 4) (k : RegNum) (v : Word) : (s.cpWrite m k v).cpAnswers = s.cpAnswers := rfl
@[simp] theorem State.cpWrite_cpErrors (s : State) (m : BitVec 4) (k : RegNum) (v : Word) : (s.cpWrite m k v).cpErrors = s.cpErrors := rfl
@[simp] theorem State.cpWrite_log (s : State) (m : BitVec 4) (k : RegNum) (v : Word) : (s.cpWrite m k v).log = .cpWrite m k v :: s.log := rfl
@[simp] theorem State.cpWrite_resets (s : State) (m : BitVec 4) (k : RegNum) (v : Word) : (s.cpWrite m k v).resets = s.resets := rfl

/-! ### cpExecute -/

@[simp] theorem State.cpExecute_regs (s : State) (cp : BitVec 3) (fn : CpFunction) : (s.cpExecute cp fn).regs = s.regs := rfl
@[simp] theorem State.cpExecute_pc (s : State) (cp : BitVec 3) (fn : CpFunction) : (s.cpExecute cp fn).pc = s.pc := rfl
@[simp] theorem State.cpExecute_flags (s : State) (cp : BitVec 3) (fn : CpFunction) : (s.cpExecute cp fn).flags = s.flags := rfl
@[simp] theorem State.cpExecute_status (s : State) (cp : BitVec 3) (fn : CpFunction) : (s.cpExecute cp fn).status = s.status := rfl
@[simp] theorem State.cpExecute_mask (s : State) (cp : BitVec 3) (fn : CpFunction) : (s.cpExecute cp fn).mask = s.mask := rfl
@[simp] theorem State.cpExecute_abort (s : State) (cp : BitVec 3) (fn : CpFunction) : (s.cpExecute cp fn).abort = s.abort := rfl
@[simp] theorem State.cpExecute_intret1 (s : State) (cp : BitVec 3) (fn : CpFunction) : (s.cpExecute cp fn).intret1 = s.intret1 := rfl
@[simp] theorem State.cpExecute_intret2 (s : State) (cp : BitVec 3) (fn : CpFunction) : (s.cpExecute cp fn).intret2 = s.intret2 := rfl
@[simp] theorem State.cpExecute_intret3 (s : State) (cp : BitVec 3) (fn : CpFunction) : (s.cpExecute cp fn).intret3 = s.intret3 := rfl
@[simp] theorem State.cpExecute_ints (s : State) (cp : BitVec 3) (fn : CpFunction) : (s.cpExecute cp fn).ints = s.ints := rfl
@[simp] theorem State.cpExecute_intd (s : State) (cp : BitVec 3) (fn : CpFunction) : (s.cpExecute cp fn).intd = s.intd := rfl
@[simp] theorem State.cpExecute_inttab (s : State) (cp : BitVec 3) (fn : CpFunction) : (s.cpExecute cp fn).inttab = s.inttab := rfl
@[simp] theorem State.cpExecute_io (s : State) (cp : BitVec 3) (fn : CpFunction) : (s.cpExecute cp fn).io = s.io := rfl
@[simp] theorem State.cpExecute_cpe (s : State) (cp : BitVec 3) (fn : CpFunction) : (s.cpExecute cp fn).cpe = s.cpe := rfl
@[simp] theorem State.cpExecute_irqBuffer (s : State) (cp : BitVec 3) (fn : CpFunction) : (s.cpExecute cp fn).irqBuffer = s.irqBuffer := rfl
@[simp] theorem State.cpExecute_mem (s : State) (cp : BitVec 3) (fn : CpFunction) : (s.cpExecute cp fn).mem = s.mem := rfl
@[simp] theorem State.cpExecute_plat (s : State) (cp : BitVec 3) (fn : CpFunction) : (s.cpExecute cp fn).plat = s.plat := rfl
@[simp] theorem State.cpExecute_inputs (s : State) (cp : BitVec 3) (fn : CpFunction) : (s.cpExecute cp fn).inputs = s.inputs := rfl
@[simp] theorem State.cpExecute_portAnswers (s : State) (cp : BitVec 3) (fn : CpFunction) : (s.cpExecute cp fn).portAnswers = s.portAnswers := rfl
@[simp] theorem State.cpExecute_cpAnswers (s : State) (cp : BitVec 3) (fn : CpFunction) : (s.cpExecute cp fn).cpAnswers = s.cpAnswers := rfl
@[simp] theorem State.cpExecute_cpErrors (s : State) (cp : BitVec 3) (fn : CpFunction) : (s.cpExecute cp fn).cpErrors = s.cpErrors := rfl
@[simp] theorem State.cpExecute_log (s : State) (cp : BitVec 3) (fn : CpFunction) : (s.cpExecute cp fn).log = .cpExecute cp fn :: s.log := rfl
@[simp] theorem State.cpExecute_resets (s : State) (cp : BitVec 3) (fn : CpFunction) : (s.cpExecute cp fn).resets = s.resets := rfl

/-! ### cpWait -/

@[simp] theorem State.cpWait_regs (s : State) (cp : BitVec 3) : (s.cpWait cp).regs = s.regs := rfl
@[simp] theorem State.cpWait_pc (s : State) (cp : BitVec 3) : (s.cpWait cp).pc = s.pc := rfl
@[simp] theorem State.cpWait_flags (s : State) (cp : BitVec 3) : (s.cpWait cp).flags = s.flags := rfl
@[simp] theorem State.cpWait_status (s : State) (cp : BitVec 3) : (s.cpWait cp).status = s.status := rfl
@[simp] theorem State.cpWait_mask (s : State) (cp : BitVec 3) : (s.cpWait cp).mask = s.mask := rfl
@[simp] theorem State.cpWait_abort (s : State) (cp : BitVec 3) : (s.cpWait cp).abort = s.abort := rfl
@[simp] theorem State.cpWait_intret1 (s : State) (cp : BitVec 3) : (s.cpWait cp).intret1 = s.intret1 := rfl
@[simp] theorem State.cpWait_intret2 (s : State) (cp : BitVec 3) : (s.cpWait cp).intret2 = s.intret2 := rfl
@[simp] theorem State.cpWait_intret3 (s : State) (cp : BitVec 3) : (s.cpWait cp).intret3 = s.intret3 := rfl
@[simp] theorem State.cpWait_ints (s : State) (cp : BitVec 3) : (s.cpWait cp).ints = s.ints := rfl
@[simp] theorem State.cpWait_intd (s : State) (cp : BitVec 3) : (s.cpWait cp).intd = s.intd := rfl
@[simp] theorem State.cpWait_inttab (s : State) (cp : BitVec 3) : (s.cpWait cp).inttab = s.inttab := rfl
@[simp] theorem State.cpWait_io (s : State) (cp : BitVec 3) : (s.cpWait cp).io = s.io := rfl
@[simp] theorem State.cpWait_cpe (s : State) (cp : BitVec 3) : (s.cpWait cp).cpe = s.cpe := rfl
@[simp] theorem State.cpWait_irqBuffer (s : State) (cp : BitVec 3) : (s.cpWait cp).irqBuffer = s.irqBuffer := rfl
@[simp] theorem State.cpWait_mem (s : State) (cp : BitVec 3) : (s.cpWait cp).mem = s.mem := rfl
@[simp] theorem State.cpWait_plat (s : State) (cp : BitVec 3) : (s.cpWait cp).plat = s.plat := rfl
@[simp] theorem State.cpWait_inputs (s : State) (cp : BitVec 3) : (s.cpWait cp).inputs = s.inputs := rfl
@[simp] theorem State.cpWait_portAnswers (s : State) (cp : BitVec 3) : (s.cpWait cp).portAnswers = s.portAnswers := rfl
@[simp] theorem State.cpWait_cpAnswers (s : State) (cp : BitVec 3) : (s.cpWait cp).cpAnswers = s.cpAnswers := rfl
@[simp] theorem State.cpWait_cpErrors (s : State) (cp : BitVec 3) : (s.cpWait cp).cpErrors = s.cpErrors := rfl
@[simp] theorem State.cpWait_log (s : State) (cp : BitVec 3) : (s.cpWait cp).log = .cpWait cp :: s.log := rfl
@[simp] theorem State.cpWait_resets (s : State) (cp : BitVec 3) : (s.cpWait cp).resets = s.resets := rfl

/-! ### cpPull -/

@[simp] theorem State.cpPull_regs (s : State) (cp : BitVec 3) : (s.cpPull cp).regs = s.regs := rfl
@[simp] theorem State.cpPull_pc (s : State) (cp : BitVec 3) : (s.cpPull cp).pc = s.pc := rfl
@[simp] theorem State.cpPull_flags (s : State) (cp : BitVec 3) : (s.cpPull cp).flags = s.flags := rfl
@[simp] theorem State.cpPull_status (s : State) (cp : BitVec 3) : (s.cpPull cp).status = s.status := rfl
@[simp] theorem State.cpPull_mask (s : State) (cp : BitVec 3) : (s.cpPull cp).mask = s.mask := rfl
@[simp] theorem State.cpPull_abort (s : State) (cp : BitVec 3) : (s.cpPull cp).abort = s.abort := rfl
@[simp] theorem State.cpPull_intret1 (s : State) (cp : BitVec 3) : (s.cpPull cp).intret1 = s.intret1 := rfl
@[simp] theorem State.cpPull_intret2 (s : State) (cp : BitVec 3) : (s.cpPull cp).intret2 = s.intret2 := rfl
@[simp] theorem State.cpPull_intret3 (s : State) (cp : BitVec 3) : (s.cpPull cp).intret3 = s.intret3 := rfl
@[simp] theorem State.cpPull_ints (s : State) (cp : BitVec 3) : (s.cpPull cp).ints = s.ints := rfl
@[simp] theorem State.cpPull_intd (s : State) (cp : BitVec 3) : (s.cpPull cp).intd = s.intd := rfl
@[simp] theorem State.cpPull_inttab (s : State) (cp : BitVec 3) : (s.cpPull cp).inttab = s.inttab := rfl
@[simp] theorem State.cpPull_io (s : State) (cp : BitVec 3) : (s.cpPull cp).io = s.io := rfl
@[simp] theorem State.cpPull_cpe (s : State) (cp : BitVec 3) : (s.cpPull cp).cpe = s.cpe := rfl
@[simp] theorem State.cpPull_irqBuffer (s : State) (cp : BitVec 3) : (s.cpPull cp).irqBuffer = s.irqBuffer := rfl
@[simp] theorem State.cpPull_mem (s : State) (cp : BitVec 3) : (s.cpPull cp).mem = s.mem := rfl
@[simp] theorem State.cpPull_plat (s : State) (cp : BitVec 3) : (s.cpPull cp).plat = s.plat := rfl
@[simp] theorem State.cpPull_inputs (s : State) (cp : BitVec 3) : (s.cpPull cp).inputs = s.inputs := rfl
@[simp] theorem State.cpPull_portAnswers (s : State) (cp : BitVec 3) : (s.cpPull cp).portAnswers = s.portAnswers := rfl
@[simp] theorem State.cpPull_cpAnswers (s : State) (cp : BitVec 3) : (s.cpPull cp).cpAnswers = s.cpAnswers := rfl
@[simp] theorem State.cpPull_cpErrors (s : State) (cp : BitVec 3) : (s.cpPull cp).cpErrors = s.cpErrors.tail := rfl
@[simp] theorem State.cpPull_log (s : State) (cp : BitVec 3) : (s.cpPull cp).log = .cpPull cp (s.cpError cp) :: s.log := rfl
@[simp] theorem State.cpPull_resets (s : State) (cp : BitVec 3) : (s.cpPull cp).resets = s.resets := rfl

/-! ### writeIo -/

@[simp] theorem State.writeIo_regs (s : State) (k : RegNum) (v : Word) : (s.writeIo k v).regs = s.regs := rfl
@[simp] theorem State.writeIo_pc (s : State) (k : RegNum) (v : Word) : (s.writeIo k v).pc = s.pc := rfl
@[simp] theorem State.writeIo_flags (s : State) (k : RegNum) (v : Word) : (s.writeIo k v).flags = s.flags := rfl
@[simp] theorem State.writeIo_status (s : State) (k : RegNum) (v : Word) : (s.writeIo k v).status = s.status := rfl
@[simp] theorem State.writeIo_mask (s : State) (k : RegNum) (v : Word) : (s.writeIo k v).mask = s.mask := rfl
@[simp] theorem State.writeIo_abort (s : State) (k : RegNum) (v : Word) : (s.writeIo k v).abort = s.abort := rfl
@[simp] theorem State.writeIo_intret1 (s : State) (k : RegNum) (v : Word) : (s.writeIo k v).intret1 = s.intret1 := rfl
@[simp] theorem State.writeIo_intret2 (s : State) (k : RegNum) (v : Word) : (s.writeIo k v).intret2 = s.intret2 := rfl
@[simp] theorem State.writeIo_intret3 (s : State) (k : RegNum) (v : Word) : (s.writeIo k v).intret3 = s.intret3 := rfl
@[simp] theorem State.writeIo_ints (s : State) (k : RegNum) (v : Word) : (s.writeIo k v).ints = s.ints := rfl
@[simp] theorem State.writeIo_intd (s : State) (k : RegNum) (v : Word) : (s.writeIo k v).intd = s.intd := rfl
@[simp] theorem State.writeIo_inttab (s : State) (k : RegNum) (v : Word) : (s.writeIo k v).inttab = s.inttab := rfl
@[simp] theorem State.writeIo_io (s : State) (k : RegNum) (v : Word) : (s.writeIo k v).io = s.io.set k.toNat v k.isLt := rfl
@[simp] theorem State.writeIo_cpe (s : State) (k : RegNum) (v : Word) : (s.writeIo k v).cpe = s.cpe := rfl
@[simp] theorem State.writeIo_irqBuffer (s : State) (k : RegNum) (v : Word) : (s.writeIo k v).irqBuffer = s.irqBuffer := rfl
@[simp] theorem State.writeIo_mem (s : State) (k : RegNum) (v : Word) : (s.writeIo k v).mem = s.mem := rfl
@[simp] theorem State.writeIo_plat (s : State) (k : RegNum) (v : Word) : (s.writeIo k v).plat = s.plat := rfl
@[simp] theorem State.writeIo_inputs (s : State) (k : RegNum) (v : Word) : (s.writeIo k v).inputs = s.inputs := rfl
@[simp] theorem State.writeIo_portAnswers (s : State) (k : RegNum) (v : Word) : (s.writeIo k v).portAnswers = s.portAnswers := rfl
@[simp] theorem State.writeIo_cpAnswers (s : State) (k : RegNum) (v : Word) : (s.writeIo k v).cpAnswers = s.cpAnswers := rfl
@[simp] theorem State.writeIo_cpErrors (s : State) (k : RegNum) (v : Word) : (s.writeIo k v).cpErrors = s.cpErrors := rfl
@[simp] theorem State.writeIo_log (s : State) (k : RegNum) (v : Word) : (s.writeIo k v).log = s.log := rfl
@[simp] theorem State.writeIo_resets (s : State) (k : RegNum) (v : Word) : (s.writeIo k v).resets = s.resets := rfl

/-! ### enterReset -/

@[simp] theorem State.enterReset_pc (s : State) : s.enterReset.pc = 0x0000FF00#32 := by simp only [State.enterReset]
@[simp] theorem State.enterReset_status (s : State) : s.enterReset.status = .executing := by simp only [State.enterReset]
@[simp] theorem State.enterReset_mask (s : State) : s.enterReset.mask = 0#2 := by simp only [State.enterReset]
@[simp] theorem State.enterReset_abort (s : State) : s.enterReset.abort = false := by simp only [State.enterReset]
@[simp] theorem State.enterReset_cpe (s : State) : s.enterReset.cpe = 0#8 := by simp only [State.enterReset]
@[simp] theorem State.enterReset_irqBuffer (s : State) : s.enterReset.irqBuffer = [] := by simp only [State.enterReset]
@[simp] theorem State.enterReset_mem (s : State) : s.enterReset.mem = s.mem := by simp only [State.enterReset]
@[simp] theorem State.enterReset_plat (s : State) : s.enterReset.plat = s.plat := by simp only [State.enterReset]
@[simp] theorem State.enterReset_inputs (s : State) : s.enterReset.inputs = s.inputs := by simp only [State.enterReset]
@[simp] theorem State.enterReset_portAnswers (s : State) : s.enterReset.portAnswers = s.portAnswers := by simp only [State.enterReset]
@[simp] theorem State.enterReset_cpAnswers (s : State) : s.enterReset.cpAnswers = s.cpAnswers := by simp only [State.enterReset]
@[simp] theorem State.enterReset_cpErrors (s : State) : s.enterReset.cpErrors = s.cpErrors := by simp only [State.enterReset]
@[simp] theorem State.enterReset_log (s : State) : s.enterReset.log = s.log := by simp only [State.enterReset]
@[simp] theorem State.enterReset_resets (s : State) : s.enterReset.resets = s.resets + 1 := by simp only [State.enterReset]

end Sys2Proof.Machine
end

