-- ==== Sys2Proof/Laws/Registers.lean ====
section
/-! SUPPORT. Reading and writing registers and flags. -/

namespace Sys2Proof.Machine

@[simp] theorem State.readReg_zero (s : State) : s.readReg 0#5 = 0#32 := rfl

/-- What a register holds depends on `regs` alone. -/
theorem State.readReg_congr {s t : State} (h : t.regs = s.regs) (r : RegNum) : t.readReg r = s.readReg r := by
  simp [State.readReg, h]

/-- Everything a register write does to the registers (10_state.md R22). -/
theorem State.readReg_writeReg (s : State) (r q : RegNum) (v : Word) :
    (s.writeReg r v).readReg q = if q = r ∧ r ≠ 0#5 then v else s.readReg q := by
  unfold State.writeReg
  by_cases hr : r = 0#5
  · simp [hr]
  · by_cases hq : q = 0#5
    · have : ¬ (q = r) := fun h => hr (h ▸ hq)
      simp [hr, hq, State.readReg]
      intro h
      exact absurd h.symm hr
    · by_cases h : q = r
      · subst h
        simp [hr, State.readReg, Vector.get]
      · have h' : ¬ (r.toNat = q.toNat) := fun e => h (BitVec.eq_of_toNat_eq e.symm)
        simp [hr, hq, h, State.readReg, Vector.get, Array.getElem_set, h']

theorem State.readReg_writeReg_same (s : State) (r : RegNum) (v : Word) :
    (s.writeReg r v).readReg r = if r = 0#5 then 0#32 else v := by
  rw [State.readReg_writeReg]
  by_cases h : r = 0#5 <;> simp [h]

theorem State.readReg_writeReg_other (s : State) {r q : RegNum} (v : Word) (h : q ≠ r) :
    (s.writeReg r v).readReg q = s.readReg q := by
  rw [State.readReg_writeReg]
  simp [h]

@[simp] theorem State.readReg_advance (s : State) (r : RegNum) : s.advance.readReg r = s.readReg r := rfl

@[simp] theorem State.readReg_record (s : State) (c : EnvCall) (r : RegNum) :
    (s.record c).readReg r = s.readReg r := rfl

@[simp] theorem State.readReg_portRead (s : State) (p : BitVec 8) (n : BitVec 5) (r : RegNum) :
    (s.portRead p n).readReg r = s.readReg r := rfl

@[simp] theorem State.readReg_portWrite (s : State) (p : BitVec 8) (n : BitVec 5) (b : Word) (r : RegNum) :
    (s.portWrite p n b).readReg r = s.readReg r := rfl

@[simp] theorem State.readReg_cpRead (s : State) (m : BitVec 4) (k r : RegNum) :
    (s.cpRead m k).readReg r = s.readReg r := rfl

@[simp] theorem State.readReg_cpWrite (s : State) (m : BitVec 4) (k r : RegNum) (v : Word) :
    (s.cpWrite m k v).readReg r = s.readReg r := rfl

@[simp] theorem State.readReg_cpExecute (s : State) (cp : BitVec 3) (fn : CpFunction) (r : RegNum) :
    (s.cpExecute cp fn).readReg r = s.readReg r := rfl

@[simp] theorem State.readReg_cpWait (s : State) (cp : BitVec 3) (r : RegNum) :
    (s.cpWait cp).readReg r = s.readReg r := rfl

@[simp] theorem State.readReg_cpPull (s : State) (cp : BitVec 3) (r : RegNum) :
    (s.cpPull cp).readReg r = s.readReg r := rfl

@[simp] theorem State.readReg_writeIo (s : State) (k r : RegNum) (v : Word) :
    (s.writeIo k v).readReg r = s.readReg r := rfl

/-- What a write of a transfer register does (10_state.md R39). -/
theorem State.io_writeIo (s : State) (k q : RegNum) (v : Word) :
    (s.writeIo k v).io.get q.toFin = if q = k then v else s.io.get q.toFin := by
  show (s.io.set k.toNat v k.isLt)[q.toNat]'q.isLt = if q = k then v else s.io[q.toNat]'q.isLt
  rw [Vector.getElem_set]
  by_cases h : q = k
  · simp [h]
  · have h' : ¬ (k.toNat = q.toNat) := fun e => h (BitVec.eq_of_toNat_eq e.symm)
    rw [if_neg h', if_neg h]

@[simp] theorem flagsOfBits_toBits (f : Flags) : flagsOfBits f.toBits = f := by
  cases f with
  | mk c v n z p => cases c <;> cases v <;> cases n <;> cases z <;> cases p <;> rfl

theorem toBits_flagsOfBits : ∀ b : BitVec 5, (flagsOfBits b).toBits = b := by decide

end Sys2Proof.Machine
end

