-- ==== Sys2Proof/Laws/Traps.lean ====
section
/-! SUPPORT. What reading the interrupt table, taking an exception, an abort, an event and a reset can do: one lemma
per shared operation. -/

namespace Sys2Proof.Machine

/-- What no trap changes: memory, the platform, the inputs, the answers to come and the calls made. -/
structure TrapKeeps (s t : State) : Prop where
  mem : t.mem = s.mem
  plat : t.plat = s.plat
  inputs : t.inputs = s.inputs
  portAnswers : t.portAnswers = s.portAnswers
  cpAnswers : t.cpAnswers = s.cpAnswers
  cpErrors : t.cpErrors = s.cpErrors
  log : t.log = s.log

/-- What no trap but a reset changes. -/
structure TrapKeepsData (s t : State) : Prop where
  regs : t.regs = s.regs
  flags : t.flags = s.flags
  ints : t.ints = s.ints
  intd : t.intd = s.intd
  inttab : t.inttab = s.inttab
  io : t.io = s.io
  cpe : t.cpe = s.cpe
  irqBuffer : t.irqBuffer = s.irqBuffer

/-- What a trap does, said once: it keeps what `TrapKeeps` says; it resets, or keeps what `TrapKeepsData` says too;
it never raises m; it leaves an aligned pc and Status 0. -/
structure IsTrap (s t : State) : Prop where
  keeps : TrapKeeps s t
  data : (t.resets = s.resets ∧ TrapKeepsData s t) ∨ IsReset s t
  mask : t.mask.toNat ≤ s.mask.toNat
  pc : aligned t.pc .word = true
  status : t.status = .executing

theorem TrapKeeps.refl (s : State) : TrapKeeps s s := ⟨rfl, rfl, rfl, rfl, rfl, rfl, rfl⟩

theorem TrapKeepsData.refl (s : State) : TrapKeepsData s s := ⟨rfl, rfl, rfl, rfl, rfl, rfl, rfl, rfl⟩

/-- A reset (70_reset_and_hazards.md R400). -/
theorem State.isReset_enterReset (s : State) : IsReset s s.enterReset :=
  ⟨by simp, by simp, by simp, by simp, by simp, by simp, fun a => by simp,
    ⟨by simp, by simp, by simp, by simp, by simp, by simp, by simp⟩⟩

theorem State.isTrap_enterReset (s : State) : IsTrap s s.enterReset :=
  ⟨⟨by simp, by simp, by simp, by simp, by simp, by simp, by simp⟩, .inr s.isReset_enterReset, by simp,
    by rw [State.enterReset_pc]; decide, by simp⟩

/-- A reset of a state that differs only where a reset does not look. -/
theorem IsReset.of_eq {s s' t : State} (h : IsReset s' t) (hm : s'.mem = s.mem) (hp : s'.plat = s.plat)
    (hi : s'.inputs = s.inputs) (h1 : s'.portAnswers = s.portAnswers) (h2 : s'.cpAnswers = s.cpAnswers)
    (h3 : s'.cpErrors = s.cpErrors) (h4 : s'.log = s.log) (h5 : s'.resets = s.resets) : IsReset s t where
  status := h.status
  pc := h.pc
  cpe := h.cpe
  mask := h.mask
  abort := h.abort
  irqBuffer := h.irqBuffer
  memory a := by rw [h.memory a, hm]
  environment :=
    { plat := by rw [h.environment.plat]; exact hp
      inputs := by rw [h.environment.inputs]; exact hi
      portAnswers := by rw [h.environment.portAnswers]; exact h1
      cpAnswers := by rw [h.environment.cpAnswers]; exact h2
      cpErrors := by rw [h.environment.cpErrors]; exact h3
      log := by rw [h.environment.log]; exact h4
      resets := by rw [h.environment.resets]; simp [h5] }

/-- A table entry depends on the table's address, the platform and memory alone. -/
theorem State.tableEntry_congr {s t : State} (h1 : t.inttab = s.inttab) (h2 : t.plat = s.plat)
    (h3 : t.mem = s.mem) (n : BitVec 6) : t.tableEntry n = s.tableEntry n := by
  simp [State.tableEntry, State.inttabWord, State.busOK, h1, h2, h3]

/-- The address of entry `n` as the table read computes it. -/
theorem State.entryAddress_eq (s : State) (n : BitVec 6) :
    s.inttabWord + 8#32 * n.setWidth 32 = s.entryAddress n.toNat := by
  unfold State.entryAddress
  congr 1

/-- Everything a table read can give (60_exceptions.md R334). -/
theorem State.tableEntry_spec (s : State) (n : BitVec 6) :
    (∀ h, s.tableEntry n = .ok h ↔ s.EntryHolds n.toNat h) ∧
    (s.tableEntry n = .error .busFault ↔ ¬ s.EntryReadable n.toNat) ∧
    (s.tableEntry n = .error .consistency ↔ s.EntryInvalid n.toNat) := by
  unfold State.tableEntry State.EntryHolds State.EntryInvalid State.EntryReadable
  rw [State.entryAddress_eq]
  generalize s.entryAddress n.toNat = a
  simp only [bit]
  generalize memRead s.mem a .word = e0
  generalize memRead s.mem (a + 4#32) .word = e1
  generalize s.busOK a .word .read = b0
  generalize s.busOK (a + 4#32) .word .read = b1
  generalize e0 &&& 0xFFFFFFFC#32 = h0
  cases b0 <;> cases b1 <;> cases e0.getLsbD 0 <;> cases e0.getLsbD 1 <;> by_cases h5 : e1 = 0#32 <;>
    (simp [h5]; try exact fun h => eq_comm)

/-- An entry that is not bad holds a handler. -/
theorem State.entry_cases (s : State) (n : BitVec 6) :
    (∃ h, s.EntryHolds n.toNat h ∧ s.tableEntry n = .ok h) ∨
    (s.EntryBad n.toNat ∧ ∃ e, s.tableEntry n = .error e) := by
  obtain ⟨h1, h2, h3⟩ := s.tableEntry_spec n
  cases he : s.tableEntry n with
  | ok h => exact .inl ⟨h, (h1 h).1 he, rfl⟩
  | error e =>
    refine .inr ⟨?_, e, rfl⟩
    cases e with
    | busFault => exact .inl (h2.1 he)
    | consistency => exact .inr (h3.1 he)
    | invalidInstruction | unalignedBranch =>
      exfalso
      unfold State.tableEntry at he
      simp only at he
      split at he
      · cases he
      split at he
      · cases he
      split at he <;> cases he

/-- What an entry holds depends on the table's address, the platform and memory alone. -/
theorem State.entry_congr {s t : State} (h1 : t.inttab = s.inttab) (h2 : t.plat = s.plat) (h3 : t.mem = s.mem)
    (n : Nat) : (∀ h, t.EntryHolds n h ↔ s.EntryHolds n h) ∧ (t.EntryReadable n ↔ s.EntryReadable n) ∧
      (t.EntryInvalid n ↔ s.EntryInvalid n) ∧ (t.EntryBad n ↔ s.EntryBad n) := by
  simp [State.EntryBad, State.EntryHolds, State.EntryInvalid, State.EntryReadable, State.entryAddress,
    State.inttabWord, State.busOK, h1, h2, h3]

/-- The return address of a synchronous exception is the one the parameter says (R331). -/
theorem State.excReturnAddress_eq (s : State) : s.excReturnAddress = s.syncReturn := by
  unfold State.excReturnAddress State.syncReturn State.nextPc
  cases s.plat.excReturn <;> rfl

/-- A handler's address is a multiple of 4 (60_exceptions.md R305). -/
theorem State.tableEntry_aligned {s : State} {n : BitVec 6} {h : Word} (e : s.tableEntry n = .ok h) :
    aligned h .word = true := by
  unfold State.tableEntry at e
  simp only at e
  split at e
  · cases e
  split at e
  · cases e
  split at e
  · cases e
  cases e
  have : ∀ x : Word, aligned (x &&& 0xFFFFFFFC#32) .word = true := by
    intro x
    simp only [aligned, widthWord, widthBytes, BitVec.and_assoc]
    simp
  exact this _

/-- The abort (R333). -/
theorem State.isTrap_enterAbort (s : State) : IsTrap s s.enterAbort := by
  unfold State.enterAbort
  simp only
  split
  · rename_i h e
    exact ⟨⟨rfl, rfl, rfl, rfl, rfl, rfl, rfl⟩, .inl ⟨rfl, ⟨rfl, rfl, rfl, rfl, rfl, rfl, rfl, rfl⟩⟩, by simp,
      State.tableEntry_aligned e, rfl⟩
  · have r := State.isTrap_enterReset { s with abort := true, mask := 0#2, status := .executing }
    refine ⟨⟨r.keeps.mem, r.keeps.plat, r.keeps.inputs, r.keeps.portAnswers, r.keeps.cpAnswers, r.keeps.cpErrors,
      r.keeps.log⟩, .inr ((State.isReset_enterReset _).of_eq rfl rfl rfl rfl rfl rfl rfl rfl), by simp, r.pc, r.status⟩

/-- A blocked synchronous exception (R311). -/
theorem State.isTrap_blockedException (s : State) : IsTrap s s.blockedException := by
  unfold State.blockedException
  split
  · exact s.isTrap_enterReset
  · exact s.isTrap_enterAbort

/-- What saving a return address leaves alone. -/
theorem State.saveReturn_keeps (s : State) (p : Nat) (ret : Word) :
    TrapKeeps s (s.saveReturn p ret) ∧ TrapKeepsData s (s.saveReturn p ret) ∧
      (s.saveReturn p ret).resets = s.resets ∧ (s.saveReturn p ret).mask = s.mask ∧
      (s.saveReturn p ret).abort = s.abort := by
  unfold State.saveReturn
  split <;> exact ⟨⟨rfl, rfl, rfl, rfl, rfl, rfl, rfl⟩, ⟨rfl, rfl, rfl, rfl, rfl, rfl, rfl, rfl⟩, rfl, rfl, rfl⟩

/-- Entry (R332), for any treatment of a bad table entry that is itself a trap. -/
theorem State.isTrap_deliver (s : State) (n : BitVec 6) (p : Nat) (ret : Word)
    (badEntry : SyncExc → State → State) (hp : p ≤ 4) (hb : ∀ e s', IsTrap s' (badEntry e s')) :
    IsTrap s (s.deliver n p ret badEntry) := by
  unfold State.deliver
  split
  · exact s.isTrap_blockedException
  · rename_i hblock
    obtain ⟨k, d, hr, hm, -⟩ := s.saveReturn_keeps p ret
    have hmask : (BitVec.ofNat 2 (p - 1)).toNat ≤ s.mask.toNat := by
      have : ¬ s.mask.toNat < p := by simpa [State.blocks] using hblock
      simp only [BitVec.toNat_ofNat]
      omega
    simp only
    split
    · rename_i h e
      exact ⟨⟨k.mem, k.plat, k.inputs, k.portAnswers, k.cpAnswers, k.cpErrors, k.log⟩,
        .inl ⟨hr, ⟨d.regs, d.flags, d.ints, d.intd, d.inttab, d.io, d.cpe, d.irqBuffer⟩⟩, hmask,
        State.tableEntry_aligned e, rfl⟩
    · rename_i e he
      have t := hb e { s.saveReturn p ret with mask := BitVec.ofNat 2 (p - 1), status := .executing }
      refine ⟨⟨t.keeps.mem.trans k.mem, t.keeps.plat.trans k.plat, t.keeps.inputs.trans k.inputs,
        t.keeps.portAnswers.trans k.portAnswers, t.keeps.cpAnswers.trans k.cpAnswers,
        t.keeps.cpErrors.trans k.cpErrors, t.keeps.log.trans k.log⟩, ?_, Nat.le_trans t.mask hmask, t.pc, t.status⟩
      rcases t.data with ⟨hr', d'⟩ | r
      · exact .inl ⟨hr'.trans hr, ⟨d'.regs.trans d.regs, d'.flags.trans d.flags, d'.ints.trans d.ints,
          d'.intd.trans d.intd, d'.inttab.trans d.inttab, d'.io.trans d.io, d'.cpe.trans d.cpe,
          d'.irqBuffer.trans d.irqBuffer⟩⟩
      · exact .inr (r.of_eq k.mem k.plat k.inputs k.portAnswers k.cpAnswers k.cpErrors k.log hr)

/-- A synchronous exception (R330, R334). -/
theorem State.isTrap_deliverException (s : State) (e : SyncExc) (ret : Word) : IsTrap s (s.deliverException e ret) :=
  s.isTrap_deliver _ 1 ret _ (by omega) (fun _ s' => s'.isTrap_blockedException)

theorem State.isTrap_raise (s : State) (e : SyncExc) : IsTrap s (s.raise e) := s.isTrap_deliverException e _

/-- An asynchronous event (R320, R334). -/
theorem State.isTrap_deliverEvent (s : State) (e : Event) (ret : Word) : IsTrap s (s.deliverEvent e ret) :=
  s.isTrap_deliver _ _ ret _ (by cases e <;> simp [eventPriority]) (fun bad s' => s'.isTrap_deliverException bad ret)

/-- After entry has set m to 0 every synchronous exception is blocked: what a bad entry does there is what raising
either exception again does (R334). -/
theorem State.deliverException_blocked (s : State) (e : SyncExc) (ret : Word) (h : s.mask = 0#2) :
    s.deliverException e ret = s.blockedException := by
  simp [State.deliverException, State.deliver, State.blocks, h]

/-- A priority-2 event that is offered: a trap, or nothing (R312, R320). -/
theorem State.offerEvent_cases (s : State) (e : Event) :
    (s.mask.toNat < eventPriority e ∧ s.offerEvent e = s) ∨
      (eventPriority e ≤ s.mask.toNat ∧ s.offerEvent e = s.deliverEvent e s.pc) := by
  by_cases h : s.mask.toNat < eventPriority e
  · exact .inl ⟨h, by simp [State.offerEvent, State.blocks, h]⟩
  · exact .inr ⟨by omega, by simp [State.offerEvent, State.blocks, h]⟩

/-- An IRQ that arrives: a trap, one more pending IRQ within the capacity, or nothing (R313, R320). -/
theorem State.offerIrq_cases (s : State) (v : IrqNum) :
    s.offerIrq v = s.deliverEvent (.irq v) s.pc ∨
      (s.irqBuffer.length < s.plat.irqCapacity ∧ s.offerIrq v = { s with irqBuffer := s.irqBuffer ++ [v] }) ∨
      s.offerIrq v = s := by
  unfold State.offerIrq
  split
  · exact .inl rfl
  · split
    · rename_i h
      exact .inr (.inl ⟨h, rfl⟩)
    · exact .inr (.inr rfl)

/-- A blocked event leaves the state, an accepted one is a trap or a buffered IRQ; a stopped CPU accepts none. -/
theorem State.acceptEvent_cases (s : State) (e : Event) :
    s.acceptEvent e = s ∨ IsTrap s (s.acceptEvent e) ∨
      (∃ v, s.irqBuffer.length < s.plat.irqCapacity ∧ s.acceptEvent e = { s with irqBuffer := s.irqBuffer ++ [v] }) := by
  unfold State.acceptEvent
  split
  · exact .inl rfl
  · cases e with
    | irq v =>
      rcases s.offerIrq_cases v with h | ⟨h, h'⟩ | h
      · exact .inr (.inl (by simp only [h]; exact s.isTrap_deliverEvent _ _))
      · exact .inr (.inr ⟨v, h, h'⟩)
      · exact .inl h
    | nmi =>
      rcases s.offerEvent_cases .nmi with ⟨-, h⟩ | ⟨-, h⟩
      · exact .inl h
      · exact .inr (.inl (by simp only [h]; exact s.isTrap_deliverEvent _ _))
    | unitError cp =>
      rcases s.offerEvent_cases (.unitError cp) with ⟨-, h⟩ | ⟨-, h⟩
      · exact .inl h
      · exact .inr (.inl (by simp only [h]; exact s.isTrap_deliverEvent _ _))

end Sys2Proof.Machine
end

