-- ==== Sys2Proof/Laws/Meanings.lean ====
section
/-! SUPPORT. What the operations that several meanings share can do. -/

namespace Sys2Proof.Machine

/-- A state whose registers, flags and pc alone were changed completes. -/
theorem Completes.of_writeReg (s : State) (d : RegNum) (v : Word) : Completes [d] s (s.writeReg d v).advance where
  pc := by simp
  flags := by simp
  rest :=
    { regs := fun r hr => by
        rw [State.readReg_advance, State.readReg_writeReg_other s v (by simpa using hr)]
      memory := fun a => by simp
      system := ⟨by simp, by simp, by simp, by simp, by simp, by simp, by simp, by simp, by simp, by simp, by simp, by simp⟩
      environment := ⟨by simp, by simp, by simp, by simp, by simp, by simp, by simp⟩ }

/-- Only the pc advances. -/
theorem Completes.of_advance (s : State) : Completes [] s s.advance :=
  ⟨rfl, rfl, fun _ _ => rfl, fun _ => rfl, ⟨rfl, rfl, rfl, rfl, rfl, rfl, rfl, rfl, rfl, rfl, rfl, rfl⟩,
    ⟨rfl, rfl, rfl, rfl, rfl, rfl, rfl⟩⟩

theorem HasResult.of_writeReg (s : State) (d : RegNum) (v : Word) : HasResult d v (s.writeReg d v).advance := by
  unfold HasResult
  rw [State.readReg_advance, State.readReg_writeReg_same]

/-- The end of an arithmetic or logic instruction (43_arithmetic_logic.md R179). -/
theorem State.finishAlu_spec (s : State) (d : RegNum) (r : Word) (c : Bool) (new : Flags) :
    HasResult d r (s.finishAlu d r c new) ∧ (s.finishAlu d r c new).pc = s.pc + 4#32 ∧
      (s.finishAlu d r c new).flags = (if c = true then s.flags else new) ∧
      OnlyRegisters [d] s (s.finishAlu d r c new) := by
  have h := Completes.of_writeReg { s with flags := unlessSuppressed c s.flags new } d r
  refine ⟨HasResult.of_writeReg _ d r, h.pc, ?_, h.rest.regs, h.rest.memory, ?_, ?_⟩
  · rw [show (s.finishAlu d r c new).flags = _ from h.flags]
    cases c <;> rfl
  · exact ⟨h.rest.system.status, h.rest.system.mask, h.rest.system.abort, h.rest.system.intret1,
      h.rest.system.intret2, h.rest.system.intret3, h.rest.system.ints, h.rest.system.intd, h.rest.system.inttab,
      h.rest.system.io, h.rest.system.cpe, h.rest.system.irqBuffer⟩
  · exact ⟨h.rest.environment.plat, h.rest.environment.inputs, h.rest.environment.portAnswers,
      h.rest.environment.cpAnswers, h.rest.environment.cpErrors, h.rest.environment.log, h.rest.environment.resets⟩

/-- The checks of ST and LD, in their order, said once (42_load_store.md R150, R151): EX[2], or EX[1], or the
access at a legal width and an aligned, answered address. -/
theorem State.withAccess_cases (s : State) (b : RegNum) (wd : WidthField) (m : UpdateMode) (kind : AccessKind)
    (access : Width → Word → State) :
    (memFormLegal b wd m = false ∧ s.withAccess b wd m kind access = s.raise .invalidInstruction) ∨
    (∃ w, m ≠ .illegal ∧ b ≠ 0#5 ∧ legalWidth wd = some w ∧
      (aligned (accessAddress (s.readReg b) w m) w = false ∨
        s.busOK (accessAddress (s.readReg b) w m) w kind = false) ∧
      s.withAccess b wd m kind access = s.raise .busFault) ∨
    (∃ w, m ≠ .illegal ∧ b ≠ 0#5 ∧ legalWidth wd = some w ∧
      aligned (accessAddress (s.readReg b) w m) w = true ∧
      s.busOK (accessAddress (s.readReg b) w m) w kind = true ∧
      s.withAccess b wd m kind access = access w (accessAddress (s.readReg b) w m)) := by
  unfold State.withAccess memFormLegal
  by_cases hm : m = .illegal
  · exact .inl (by simp [hm])
  by_cases hb : b = 0#5
  · exact .inl (by simp [hb])
  simp only [hm, hb, if_false]
  cases hw : legalWidth wd with
  | none =>
    refine .inl ⟨?_, rfl⟩
    cases wd <;> simp_all [legalWidth]
  | some w =>
    right
    by_cases ha : aligned (accessAddress (s.readReg b) w m) w = true
    · by_cases ho : s.busOK (accessAddress (s.readReg b) w m) w kind = true
      · exact .inr ⟨w, hm, hb, rfl, ha, ho, by simp [ha, ho]⟩
      · exact .inl ⟨w, hm, hb, rfl, .inr (by simpa using ho), by simp [ha, ho]⟩
    · exact .inl ⟨w, hm, hb, rfl, .inl (by simpa using ha), by simp [ha]⟩

/-- A jump (45_branch.md R203, R204). -/
theorem State.jump_spec (s : State) (c : Cond) (l : RegNum) (target : Word) :
    (checkCondition s.flags c = true ∧ HasResult l (s.pc + 4#32) (s.jump c l target) ∧
      (s.jump c l target).pc = target ∧ (s.jump c l target).flags = s.flags ∧
      OnlyRegisters [l] s (s.jump c l target)) ∨
    (checkCondition s.flags c = false ∧ s.jump c l target = s.advance) := by
  unfold State.jump
  cases hc : checkCondition s.flags c with
  | false => exact .inr ⟨rfl, by simp⟩
  | true =>
    have h := Completes.of_writeReg s l (s.pc + 4#32)
    refine .inl ⟨rfl, HasResult.of_writeReg s l (s.pc + 4#32), rfl, h.flags, h.rest.regs, h.rest.memory, ?_, ?_⟩
    · exact ⟨h.rest.system.status, h.rest.system.mask, h.rest.system.abort, h.rest.system.intret1,
        h.rest.system.intret2, h.rest.system.intret3, h.rest.system.ints, h.rest.system.intd, h.rest.system.inttab,
        h.rest.system.io, h.rest.system.cpe, h.rest.system.irqBuffer⟩
    · exact ⟨h.rest.environment.plat, h.rest.environment.inputs, h.rest.environment.portAnswers,
        h.rest.environment.cpAnswers, h.rest.environment.cpErrors, h.rest.environment.log,
        h.rest.environment.resets⟩

/-- MOV from a system register: EX[2], or the read, or nothing (41_move.md R140, R141). -/
theorem State.moveFromMap_cases (st : State) (d s : RegNum) (c : Cond) (m : BitVec 4) :
    (st.readable m s = none ∧ st.moveFromMap d s c m = st.raise .invalidInstruction) ∨
    (∃ r, st.readable m s = some r ∧ checkCondition st.flags c = true ∧
      st.moveFromMap d s c m = ((st.sysRead r).writeReg d (st.sysValue r)).advance) ∨
    (∃ r, st.readable m s = some r ∧ checkCondition st.flags c = false ∧
      st.moveFromMap d s c m = st.advance) := by
  unfold State.moveFromMap
  cases hr : st.readable m s with
  | none => exact .inl ⟨rfl, rfl⟩
  | some r =>
    cases hc : checkCondition st.flags c with
    | false => exact .inr (.inr ⟨r, rfl, rfl, by simp⟩)
    | true => exact .inr (.inl ⟨r, rfl, rfl, by simp⟩)

/-- MOV to a system register: EX[2], or the write, or EX[4], or nothing (R140, R141). -/
theorem State.moveToMap_cases (st : State) (d s : RegNum) (c : Cond) (m : BitVec 4) :
    (st.writable m d = none ∧ st.moveToMap d s c m = st.raise .invalidInstruction) ∨
    (∃ r, st.writable m d = some r ∧ checkCondition st.flags c = true ∧ st.validValue r (st.readReg s) = true ∧
      st.moveToMap d s c m = (st.sysWrite r (st.readReg s)).advance) ∨
    (∃ r, st.writable m d = some r ∧ checkCondition st.flags c = true ∧ st.validValue r (st.readReg s) = false ∧
      st.moveToMap d s c m = st.raise .consistency) ∨
    (∃ r, st.writable m d = some r ∧ checkCondition st.flags c = false ∧
      st.moveToMap d s c m = st.advance) := by
  unfold State.moveToMap
  cases hr : st.writable m d with
  | none => exact .inl ⟨rfl, rfl⟩
  | some r =>
    cases hc : checkCondition st.flags c with
    | false => exact .inr (.inr (.inr ⟨r, rfl, rfl, by simp⟩))
    | true =>
      cases hv : st.validValue r (st.readReg s) with
      | false => exact .inr (.inr (.inl ⟨r, rfl, rfl, hv, by simp [hv]⟩))
      | true => exact .inr (.inl ⟨r, rfl, rfl, hv, by simp [hv]⟩)

/-- A waiting coprocessor instruction: the exception of a disabled coprocessor, or the three calls and what the
reported error does (48_coprocessor.md R252, R258). -/
theorem State.invokeWaiting_cases (s : State) (cp : BitVec 3) (fn : CpFunction) :
    (s.cpEnabled cp = false ∧ s.invokeWaiting cp fn = s.raise s.plat.cpiDisabledExc) ∨
    (s.cpEnabled cp = true ∧
      (s.invokeWaiting cp fn = (((s.cpExecute cp fn).cpWait cp).cpPull cp).advance ∨
        s.invokeWaiting cp fn =
          (((s.cpExecute cp fn).cpWait cp).cpPull cp).advance.offerEvent (.unitError cp))) := by
  unfold State.invokeWaiting
  cases he : s.cpEnabled cp with
  | false => exact .inl ⟨rfl, by simp⟩
  | true =>
    refine .inr ⟨rfl, ?_⟩
    simp only [if_true]
    split
    · exact .inr rfl
    · exact .inl rfl

/-- A non-waiting coprocessor instruction (R253). -/
theorem State.invoke_cases (s : State) (cp : BitVec 3) (fn : CpFunction) :
    (s.cpEnabled cp = false ∧ s.invoke cp fn = s.raise s.plat.cpiDisabledExc) ∨
    (s.cpEnabled cp = true ∧ s.invoke cp fn = (s.cpExecute cp fn).advance) := by
  unfold State.invoke
  cases he : s.cpEnabled cp with
  | false => exact .inl ⟨rfl, by simp⟩
  | true => exact .inr ⟨rfl, by simp⟩

end Sys2Proof.Machine
end

