-- ==== Sys2Proof/Laws/Exec.lean ====
section
/-! SUPPORT. What one instruction can do, said once for all of them: an ordinary effect, and a trap after it. -/

namespace Sys2Proof.Machine

/-- The effect of an instruction apart from traps: what it keeps, and which instructions may change the rest. -/
structure IsOrdinary (i : Instr) (s t : State) : Prop where
  plat : t.plat = s.plat
  inputs : t.inputs = s.inputs
  resets : t.resets = s.resets
  irqBuffer : t.irqBuffer = s.irqBuffer
  log : ∃ calls, t.log = calls ++ s.log
  mem : stores i = false → t.mem = s.mem
  wf : s.mem.wf = true → t.mem.wf = true
  flags : writesFlags i = false → t.flags = s.flags
  parity : writesParity i = false → t.flags.p = s.flags.p
  map1 : movesToMap 1#4 i = false → t.ints = s.ints ∧ t.intd = s.intd ∧ t.inttab = s.inttab
  map4 : movesToMap 4#4 i = false → t.cpe = s.cpe
  map2 : movesToMap 2#4 i = false → transfersBits i = false → t.io = s.io
  present : s.cpe &&& ~~~s.plat.cpPresent = 0#8 → t.cpe &&& ~~~s.plat.cpPresent = 0#8
  pc : aligned s.pc .word = true → aligned t.pc .word = true
  mask : t.mask = s.mask ∨ ∃ (r : RegNum) (l : Bool) (c : Cond), i = .mov 0#5 r l c .toMap 1#4
  status : t.status = s.status ∨ (i = .halt ∧ t.status = .halted) ∨ (i = .stop ∧ t.status = .stopped)

/-- The next instruction's address is a multiple of 4 where this one's is (10_state.md R24). -/
theorem aligned_add_four (a : Word) (h : aligned a .word = true) : aligned (a + 4#32) .word = true := by
  simp only [aligned, widthWord, widthBytes, beq_iff_eq] at h ⊢
  have h' := congrArg BitVec.toNat h
  apply BitVec.eq_of_toNat_eq
  have e : ∀ x : Word, (x &&& (BitVec.ofNat 32 4 - 1#32)).toNat = x.toNat % 4 := by
    intro x
    rw [show (BitVec.ofNat 32 4 - 1#32) = 3#32 from rfl, BitVec.toNat_and]
    exact Nat.and_two_pow_sub_one_eq_mod x.toNat 2
  rw [e] at h' ⊢
  simp only [BitVec.toNat_add, BitVec.toNat_ofNat] at h' ⊢
  omega

/-- An address is aligned to a word exactly when it is a multiple of 4. -/
theorem aligned_word_iff (a : Word) : aligned a .word = true ↔ a.toNat % 4 = 0 := by
  simp only [aligned, widthWord, widthBytes, beq_iff_eq]
  have e : (a &&& (BitVec.ofNat 32 4 - 1#32)).toNat = a.toNat % 4 := by
    rw [show (BitVec.ofNat 32 4 - 1#32) = 3#32 from rfl, BitVec.toNat_and]
    exact Nat.and_two_pow_sub_one_eq_mod a.toNat 2
  constructor
  · intro h
    rw [← e, h]
    rfl
  · intro h
    apply BitVec.eq_of_toNat_eq
    rw [e, h]
    rfl

/-- A JMP's target is a multiple of 4 where the jump's own address is (10_state.md R24). -/
theorem aligned_jump (a : Word) (o : BitVec 15) (h : aligned a .word = true) :
    aligned (a + 4#32 + jumpDisplacement o) .word = true := by
  have h1 := aligned_add_four a h
  rw [aligned_word_iff] at h1 ⊢
  have h2 : (jumpDisplacement o).toNat % 4 = 0 := by
    simp only [jumpDisplacement, BitVec.toNat_shiftLeft, Nat.shiftLeft_eq]
    omega
  rw [BitVec.toNat_add]
  omega

/-- An effect on general registers, flags the instruction may write, and the pc alone. -/
theorem IsOrdinary.of_parts {i : Instr} {s t : State} {ds : List RegNum} (h : OnlyRegisters ds s t)
    (hm : t.mem = s.mem) (hpc : aligned s.pc .word = true → aligned t.pc .word = true)
    (hf : writesFlags i = false → t.flags = s.flags) (hp : writesParity i = false → t.flags.p = s.flags.p) :
    IsOrdinary i s t where
  plat := h.environment.plat
  inputs := h.environment.inputs
  resets := h.environment.resets
  irqBuffer := h.system.irqBuffer
  log := ⟨[], h.environment.log⟩
  mem _ := hm
  wf := by rw [hm]; exact id
  flags := hf
  parity := hp
  map1 _ := ⟨h.system.ints, h.system.intd, h.system.inttab⟩
  map4 _ := h.system.cpe
  map2 _ _ := h.system.io
  present := by rw [h.system.cpe]; exact id
  pc := hpc
  mask := .inl h.system.mask
  status := .inl h.system.status

theorem IsOrdinary.of_completes {i : Instr} {s t : State} {ds : List RegNum} (h : Completes ds s t)
    (hm : t.mem = s.mem) : IsOrdinary i s t :=
  .of_parts h.rest hm (by rw [h.pc]; exact aligned_add_four s.pc) (fun _ => h.flags) (fun _ => by rw [h.flags])

theorem IsOrdinary.refl (i : Instr) (s : State) : IsOrdinary i s s :=
  ⟨rfl, rfl, rfl, rfl, ⟨[], rfl⟩, fun _ => rfl, id, fun _ => rfl, fun _ => rfl, fun _ => ⟨rfl, rfl, rfl⟩, fun _ => rfl,
    fun _ _ => rfl, id, id, .inl rfl, .inl rfl⟩

theorem IsOrdinary.of_writeReg (i : Instr) (s : State) (d : RegNum) (v : Word) :
    IsOrdinary i s (s.writeReg d v).advance :=
  .of_completes (Completes.of_writeReg s d v) (by simp)

theorem IsOrdinary.of_advance (i : Instr) (s : State) : IsOrdinary i s s.advance :=
  .of_completes (Completes.of_advance s) rfl

/-- A call to the environment, and the pc. -/
theorem IsOrdinary.of_call {i : Instr} {s t : State} (u : State) (calls : List EnvCall) (hu : IsOrdinary i s u)
    (hlog : t.log = calls ++ u.log) (h1 : t.plat = u.plat) (h2 : t.inputs = u.inputs) (h3 : t.resets = u.resets)
    (h4 : t.irqBuffer = u.irqBuffer) (h5 : t.mem = u.mem) (h6 : t.flags = u.flags) (h7 : t.ints = u.ints)
    (h8 : t.intd = u.intd) (h9 : t.inttab = u.inttab) (h10 : t.cpe = u.cpe) (h11 : t.io = u.io) (h12 : t.pc = u.pc)
    (h13 : t.mask = u.mask) (h14 : t.status = u.status) : IsOrdinary i s t where
  plat := h1.trans hu.plat
  inputs := h2.trans hu.inputs
  resets := h3.trans hu.resets
  irqBuffer := h4.trans hu.irqBuffer
  log := by
    obtain ⟨c, hc⟩ := hu.log
    exact ⟨calls ++ c, by rw [hlog, hc, List.append_assoc]⟩
  mem h := h5.trans (hu.mem h)
  wf := by rw [h5]; exact hu.wf
  flags h := h6.trans (hu.flags h)
  parity h := by rw [h6]; exact hu.parity h
  map1 h := by rw [h7, h8, h9]; exact hu.map1 h
  map4 h := h10.trans (hu.map4 h)
  map2 h h' := h11.trans (hu.map2 h h')
  present := by rw [h10]; exact hu.present
  pc := by rw [h12]; exact hu.pc
  mask := by rw [h13]; exact hu.mask
  status := by rw [h14]; exact hu.status

/-- What `exec i s` answers: an ordinary effect, followed by a trap or by nothing. -/
def Runs (i : Instr) (s : State) (o : Host.Outcome State Fault Refusal) : Prop :=
  ∃ u t, o = .next t ∧ IsOrdinary i s u ∧ (t = u ∨ IsTrap u t)

theorem Runs.of_ordinary {i : Instr} {s t : State} (h : IsOrdinary i s t) : Runs i s (.next t) :=
  ⟨t, t, rfl, h, .inl rfl⟩

theorem Runs.of_raise (i : Instr) (s : State) (e : SyncExc) : Runs i s (.next (s.raise e)) :=
  ⟨s, _, rfl, .refl i s, .inr (s.isTrap_raise e)⟩

theorem Runs.of_invoke (i : Instr) (s : State) (cp : BitVec 3) (fn : CpFunction) :
    Runs i s (.next (s.invoke cp fn)) := by
  rcases s.invoke_cases cp fn with ⟨-, e⟩ | ⟨-, e⟩ <;> rw [e]
  · exact .of_raise i s _
  · exact .of_ordinary (.of_call s.advance [.cpExecute cp fn] (.of_advance i s) rfl rfl rfl rfl rfl rfl rfl rfl rfl rfl
      rfl rfl rfl rfl rfl)

theorem Runs.of_invokeWaiting (i : Instr) (s : State) (cp : BitVec 3) (fn : CpFunction) :
    Runs i s (.next (s.invokeWaiting cp fn)) := by
  have h : IsOrdinary i s (((s.cpExecute cp fn).cpWait cp).cpPull cp).advance :=
    .of_call s.advance [_, _, _] (.of_advance i s) rfl rfl rfl rfl rfl rfl rfl rfl rfl rfl rfl rfl rfl rfl rfl
  rcases s.invokeWaiting_cases cp fn with ⟨-, e⟩ | ⟨-, e | e⟩ <;> rw [e]
  · exact .of_raise i s _
  · exact .of_ordinary h
  · rcases State.offerEvent_cases (((s.cpExecute cp fn).cpWait cp).cpPull cp).advance (.unitError cp) with
      ⟨-, e⟩ | ⟨-, e⟩ <;> rw [e]
    · exact .of_ordinary h
    · exact ⟨_, _, rfl, h, .inr (State.isTrap_deliverEvent _ _ _)⟩

theorem Runs.of_finishAlu (i : Instr) (s : State) (d : RegNum) (r : Word) (c : Bool) (new : Flags)
    (hi : writesFlags i = true) (hp : new.p = s.flags.p) : Runs i s (.next (s.finishAlu d r c new)) := by
  obtain ⟨-, hpc, hf, ho⟩ := s.finishAlu_spec d r c new
  refine .of_ordinary (.of_parts ho (by simp [State.finishAlu]) (by rw [hpc]; exact aligned_add_four s.pc) ?_ ?_)
  · simp [hi]
  · intro _
    rw [hf]
    cases c <;> simp [hp]

theorem Runs.of_jump (i : Instr) (s : State) (c : Cond) (l : RegNum) (target : Word)
    (h : aligned s.pc .word = true → aligned target .word = true) : Runs i s (.next (s.jump c l target)) := by
  rcases s.jump_spec c l target with ⟨-, -, hpc, hf, ho⟩ | ⟨-, e⟩
  · refine .of_ordinary (.of_parts ho ?_ (by rw [hpc]; exact h) (fun _ => hf) (fun _ => by rw [hf]))
    unfold State.jump
    split <;> simp
  · rw [e]
    exact .of_ordinary (.of_advance i s)

theorem IsOrdinary.of_sysRead (i : Instr) (s : State) (r : SysReg) (d : RegNum) (v : Word) :
    IsOrdinary i s ((s.sysRead r).writeReg d v).advance := by
  have h := IsOrdinary.of_writeReg i s d v
  cases r with
  | cpControl n =>
    exact .of_call (s.writeReg d v).advance [.cpRead 4#4 (n.setWidth 5) (s.cpValue 4#4 (n.setWidth 5))] h
      (by simp [State.sysRead, State.cpRead, State.record]) (by simp [State.sysRead]) (by simp [State.sysRead])
      (by simp [State.sysRead]) (by simp [State.sysRead]) (by simp [State.sysRead]) (by simp [State.sysRead])
      (by simp [State.sysRead]) (by simp [State.sysRead]) (by simp [State.sysRead]) (by simp [State.sysRead])
      (by simp [State.sysRead]) (by simp [State.sysRead]) (by simp [State.sysRead]) (by simp [State.sysRead])
  | cpReg n k =>
    exact .of_call (s.writeReg d v).advance [.cpRead (cpMap n) k (s.cpValue (cpMap n) k)] h
      (by simp [State.sysRead, State.cpRead, State.record]) (by simp [State.sysRead]) (by simp [State.sysRead])
      (by simp [State.sysRead]) (by simp [State.sysRead]) (by simp [State.sysRead]) (by simp [State.sysRead])
      (by simp [State.sysRead]) (by simp [State.sysRead]) (by simp [State.sysRead]) (by simp [State.sysRead])
      (by simp [State.sysRead]) (by simp [State.sysRead]) (by simp [State.sysRead]) (by simp [State.sysRead])
  | intctl | intret1 | intret2 | intret3 | ints _ | intd _ | inttab | io _ | info _ | cpe | cpp => exact h

/-- The map a register belongs to, and for `intctl` its number. -/
def SysReg.InMap (m : BitVec 4) (k : RegNum) : SysReg → Prop
  | .intctl => m = 1#4 ∧ k = 0#5
  | .intret1 | .intret2 | .intret3 | .ints _ | .intd _ | .inttab => m = 1#4
  | .io _ => m = 2#4
  | .info _ => m = 3#4
  | .cpControl _ | .cpe | .cpp => m = 4#4
  | .cpReg _ _ => m ≠ 1#4 ∧ m ≠ 2#4 ∧ m ≠ 3#4 ∧ m ≠ 4#4

/-- The register that a map and a number name is a register of that map. -/
theorem sysRegister_inMap {m : BitVec 4} {k : RegNum} {r : SysReg} (h : sysRegister m k = some r) : r.InMap m k := by
  unfold sysRegister at h
  split at h
  · cases h
  · rename_i hm
    have hm' : m = 1#4 := BitVec.eq_of_toNat_eq hm
    unfold map1Register at h
    split at h <;> cases h <;> first | exact hm' | skip
    rename_i hk
    exact ⟨hm', BitVec.eq_of_toNat_eq hk⟩
  · cases h; rename_i hm; exact BitVec.eq_of_toNat_eq hm
  · cases h; rename_i hm; exact BitVec.eq_of_toNat_eq hm
  · rename_i hm
    have hm' : m = 4#4 := BitVec.eq_of_toNat_eq hm
    unfold map4Register at h
    split at h
    · cases h; exact hm'
    · split at h
      · cases h; exact hm'
      · split at h
        · cases h; exact hm'
        · cases h
  · cases h
  · cases h
  · cases h
  · rename_i h0 h1 h2 h3 h4 h5 h6 h7
    cases h
    refine ⟨?_, ?_, ?_, ?_⟩ <;> rintro rfl
    · exact h1 rfl
    · exact h2 rfl
    · exact h3 rfl
    · exact h4 rfl

theorem State.sysRegister_of_writable {s : State} {m : BitVec 4} {k : RegNum} {r : SysReg}
    (h : s.writable m k = some r) : sysRegister m k = some r ∧ sysRegWritable r = true := by
  unfold State.writable State.readable at h
  cases hr : sysRegister m k with
  | none => simp [hr] at h
  | some r' =>
    simp only [hr] at h
    split at h
    · cases h
    · rename_i r'' h'
      split at h'
      · cases h'
        split at h
        · rename_i hw
          cases h
          exact ⟨rfl, hw⟩
        · cases h
      · cases h'

/-- A MOV to a system register of a value it accepts. -/
theorem IsOrdinary.of_sysWrite (s : State) (k x : RegNum) (l : Bool) (c : Cond) (m : BitVec 4) (r : SysReg) (v : Word)
    (hr : s.writable m k = some r) (hv : s.validValue r v = true) :
    IsOrdinary (.mov k x l c .toMap m) s (s.sysWrite r v).advance := by
  have hm := sysRegister_inMap (State.sysRegister_of_writable hr).1
  have h := IsOrdinary.of_advance (.mov k x l c .toMap m) s
  cases r with
  | cpControl n =>
    exact .of_call s.advance [.cpWrite 4#4 (n.setWidth 5) v] h rfl rfl rfl rfl rfl rfl rfl rfl rfl rfl rfl rfl rfl rfl
      rfl
  | cpReg n j =>
    exact .of_call s.advance [.cpWrite (cpMap n) j v] h rfl rfl rfl rfl rfl rfl rfl rfl rfl rfl rfl rfl rfl rfl rfl
  | intctl =>
    obtain ⟨rfl, rfl⟩ := hm
    exact { h with mask := .inr ⟨x, l, c, rfl⟩ }
  | cpe =>
    obtain rfl : m = 4#4 := hm
    have hp : field v 0 8 &&& ~~~s.plat.cpPresent = 0#8 := by
      simp only [State.validValue, Bool.and_eq_true, beq_iff_eq] at hv
      exact hv.2
    exact { h with map4 := fun hf => by simp [movesToMap] at hf, present := fun _ => hp }
  | io j =>
    obtain rfl : m = 2#4 := hm
    exact { h with map2 := fun hf => by simp [movesToMap] at hf }
  | intret1 | intret2 | intret3 | info _ | cpp => exact { h with }
  | ints j | intd j | inttab =>
    obtain rfl : m = 1#4 := hm
    exact { h with map1 := fun hf => by simp [movesToMap] at hf }

theorem Runs.of_mov (d x : RegNum) (l : Bool) (c : Cond) (dir : Direction) (m : BitVec 4) (s : State) :
    Runs (.mov d x l c dir m) s (execMov d x l c dir m s) := by
  unfold execMov
  split
  · unfold State.moveGeneral
    split
    · exact .of_ordinary (.of_writeReg _ s d _)
    · exact .of_ordinary (.of_advance _ s)
  · cases dir with
    | fromMap =>
      rcases s.moveFromMap_cases d x c m with ⟨-, e⟩ | ⟨r, -, -, e⟩ | ⟨r, -, -, e⟩ <;> simp only [e]
      · exact .of_raise _ s _
      · exact .of_ordinary (.of_sysRead _ s r d _)
      · exact .of_ordinary (.of_advance _ s)
    | toMap =>
      rcases s.moveToMap_cases d x c m with ⟨-, e⟩ | ⟨r, hr, -, hv, e⟩ | ⟨r, -, -, -, e⟩ | ⟨r, -, -, e⟩ <;>
        simp only [e]
      · exact .of_raise _ s _
      · exact .of_ordinary (.of_sysWrite s d x l c m r _ hr hv)
      · exact .of_raise _ s _
      · exact .of_ordinary (.of_advance _ s)

theorem State.updateBase_cases (s : State) (r : RegNum) (addr : Word) (w : Width) (m : UpdateMode) :
    s.updateBase r addr w m = s ∨ ∃ v, s.updateBase r addr w m = s.writeReg r v := by
  cases m <;> simp [State.updateBase]

theorem Runs.of_st (d x : RegNum) (wd : WidthField) (m : UpdateMode) (s : State) :
    Runs (.st d x wd m) s (execSt d x wd m s) := by
  unfold execSt
  rcases s.withAccess_cases d wd m .write _ with ⟨-, e⟩ | ⟨w, -, -, -, -, e⟩ | ⟨w, -, -, -, -, -, e⟩ <;> rw [e]
  · exact .of_raise _ s _
  · exact .of_raise _ s _
  · refine .of_ordinary ?_
    have h : IsOrdinary (.st d x wd m) s
        (({ s with mem := memWrite s.mem (accessAddress (s.readReg d) w m) w (s.readReg x) } : State).advance) :=
      { IsOrdinary.of_advance (.st d x wd m) s with
        mem := fun hf => by simp [stores] at hf
        wf := fun hw => wf_memWrite _ _ _ _ hw }
    rcases State.updateBase_cases
      { s with mem := memWrite s.mem (accessAddress (s.readReg d) w m) w (s.readReg x) } d
      (accessAddress (s.readReg d) w m) w m with e | ⟨v, e⟩ <;> rw [e]
    · exact h
    · exact .of_call _ [] h (by simp) (by simp) (by simp) (by simp) (by simp) (by simp) (by simp) (by simp) (by simp)
        (by simp) (by simp) (by simp) (by simp) (by simp) (by simp)

theorem Runs.of_ld (d x : RegNum) (wd : WidthField) (m : UpdateMode) (s : State) :
    Runs (.ld d x wd m) s (execLd d x wd m s) := by
  unfold execLd
  rcases s.withAccess_cases x wd m .read _ with ⟨-, e⟩ | ⟨w, -, -, -, -, e⟩ | ⟨w, -, -, -, -, -, e⟩ <;> rw [e]
  · exact .of_raise _ s _
  · exact .of_raise _ s _
  · refine .of_ordinary ?_
    have h := IsOrdinary.of_writeReg (.ld d x wd m) s d (memRead s.mem (accessAddress (s.readReg x) w m) w)
    rcases State.updateBase_cases (s.writeReg d (memRead s.mem (accessAddress (s.readReg x) w m) w)) x
      (accessAddress (s.readReg x) w m) w m with e | ⟨v, e⟩ <;> rw [e]
    · exact h
    · exact .of_call _ [] h (by simp) (by simp) (by simp) (by simp) (by simp) (by simp) (by simp) (by simp) (by simp)
        (by simp) (by simp) (by simp) (by simp) (by simp) (by simp)

theorem Runs.of_xchg (a b : RegNum) (l : Bool) (c : Cond) (s : State) :
    Runs (.xchg a b l c) s (execXchg a b l c s) := by
  unfold execXchg
  split
  · exact .of_ordinary (.of_call _ [] (.of_writeReg (.xchg a b l c) s a (s.readReg b)) (by simp) (by simp) (by simp)
      (by simp) (by simp) (by simp) (by simp) (by simp) (by simp) (by simp) (by simp) (by simp) (by simp) (by simp)
      (by simp))
  · exact .of_ordinary (.of_advance _ s)

theorem Runs.of_jmpr (c : Cond) (l r : RegNum) (s : State) : Runs (.jmpr c l r) s (execJmpr c l r s) := by
  unfold execJmpr
  simp only
  split
  · exact .of_raise _ s _
  · rename_i h
    exact .of_jump _ s c l _ (fun _ => by simpa using h)

theorem Runs.of_portIn (d : RegNum) (p : BitVec 8) (n : BitVec 5) (s : State) :
    Runs (.portIn d p n) s (execPortIn d p n s) :=
  .of_ordinary { IsOrdinary.of_advance (.portIn d p n) s with
    log := ⟨[.portRead p n (s.portBits p n)], by simp [State.portRead, State.record]⟩
    map2 := fun _ hf => by simp [transfersBits] at hf }

theorem Runs.of_portOut (r : RegNum) (p : BitVec 8) (n : BitVec 5) (s : State) :
    Runs (.portOut r p n) s (execPortOut r p n s) :=
  .of_ordinary { IsOrdinary.of_advance (.portOut r p n) s with
    log := ⟨[.portWrite p n (bitsOut (s.io.get r.toFin) n)], by simp [State.portWrite, State.record]⟩
    map2 := fun _ hf => by simp [transfersBits] at hf }

theorem Runs.of_flags (i : Instr) (s : State) (f : Flags) (h1 : writesFlags i = true) (h2 : writesParity i = true) :
    Runs i s (.next { s.advance with flags := f }) := by
  have h := Completes.of_advance s
  refine .of_ordinary (.of_parts (ds := []) ⟨h.rest.regs, h.rest.memory, ?_, ?_⟩ rfl (aligned_add_four s.pc) ?_ ?_)
  · exact ⟨rfl, rfl, rfl, rfl, rfl, rfl, rfl, rfl, rfl, rfl, rfl, rfl⟩
  · exact ⟨rfl, rfl, rfl, rfl, rfl, rfl, rfl⟩
  · simp [h1]
  · simp [h2]

/-- What every instruction can do. -/
theorem exec_runs (i : Instr) (s : State) : Runs i s (exec i s) := by
  cases i with
  | und00 | undFF => exact .of_raise _ s _
  | pause => exact .of_ordinary (.of_advance _ s)
  | mov d x l c dir m => exact .of_mov d x l c dir m s
  | st d x wd m => exact .of_st d x wd m s
  | ld d x wd m => exact .of_ld d x wd m s
  | ldi | lra | fsl | fsr | ldflags | ext => exact .of_ordinary (.of_writeReg _ s _ _)
  | addi | add | sub | and | or | xor => exact .of_finishAlu _ s _ _ _ _ rfl rfl
  | jmp c l o => exact .of_jump _ s c l _ (aligned_jump s.pc o)
  | jmpr c l r => exact .of_jmpr c l r s
  | portIn d p n => exact .of_portIn d p n s
  | portOut r p n => exact .of_portOut r p n s
  | stflags | xvp => exact .of_flags _ s _ rfl rfl
  | xchg a b l c => exact .of_xchg a b l c s
  | cpi0 | cpi1 | cpi2 | cpi3 | cpi4 | cpi5 | cpi6 | cpi7 | cpi0ef | cpi1ef | cpi2ef | cpi3ef | cpi4ef | cpi5ef
  | cpi6ef | cpi7ef => exact .of_invokeWaiting _ s _ _
  | ncpi0 | ncpi1 | ncpi2 | ncpi3 | ncpi4 | ncpi5 | ncpi6 | ncpi7 | ncpi0ef | ncpi1ef | ncpi2ef | ncpi3ef | ncpi4ef
  | ncpi5ef | ncpi6ef | ncpi7ef => exact .of_invoke _ s _ _
  | halt => exact .of_ordinary { IsOrdinary.of_advance .halt s with status := .inr (.inl ⟨rfl, rfl⟩) }
  | stop => exact .of_ordinary { IsOrdinary.of_advance .stop s with status := .inr (.inr ⟨rfl, rfl⟩) }

end Sys2Proof.Machine
end

