-- ==== Sys2Proof/Laws/PerInstr.lean ====
section
/-! SUPPORT. One lemma per constructor: the opcode in the low byte of the instruction's word is the one the opcode table gives
it (30_encoding.md R103, R105). -/

namespace Sys2Proof

/-- The opcode of an instruction, from the table of R105. -/
def opcodeOf : Instr → BitVec 8
  | .und00 _ => 0x00#8
  | .pause _ => 0x01#8
  | .mov _ _ _ _ _ _ => 0x02#8
  | .st _ _ _ _ => 0x03#8
  | .ld _ _ _ _ => 0x04#8
  | .ldi _ _ _ => 0x05#8
  | .lra _ _ _ => 0x06#8
  | .addi _ _ _ _ _ => 0x08#8
  | .add _ _ _ _ _ _ => 0x09#8
  | .sub _ _ _ _ _ _ => 0x0A#8
  | .and _ _ _ _ _ _ _ => 0x0B#8
  | .or _ _ _ _ _ _ _ => 0x0C#8
  | .xor _ _ _ _ _ _ _ => 0x0D#8
  | .fsl _ _ _ _ _ _ _ => 0x0E#8
  | .fsr _ _ _ _ _ _ _ => 0x0F#8
  | .jmp _ _ _ => 0x10#8
  | .jmpr _ _ _ => 0x11#8
  | .portIn _ _ _ => 0x14#8
  | .portOut _ _ _ => 0x15#8
  | .ldflags _ => 0x18#8
  | .stflags _ => 0x19#8
  | .xvp => 0x1A#8
  | .xchg _ _ _ _ => 0x1C#8
  | .ext _ _ _ _ => 0x1D#8
  | .cpi0 _ _ => 0x20#8
  | .cpi1 _ _ => 0x21#8
  | .cpi2 _ _ => 0x22#8
  | .cpi3 _ _ => 0x23#8
  | .cpi4 _ _ => 0x24#8
  | .cpi5 _ _ => 0x25#8
  | .cpi6 _ _ => 0x26#8
  | .cpi7 _ _ => 0x27#8
  | .ncpi0 _ _ => 0x28#8
  | .ncpi1 _ _ => 0x29#8
  | .ncpi2 _ _ => 0x2A#8
  | .ncpi3 _ _ => 0x2B#8
  | .ncpi4 _ _ => 0x2C#8
  | .ncpi5 _ _ => 0x2D#8
  | .ncpi6 _ _ => 0x2E#8
  | .ncpi7 _ _ => 0x2F#8
  | .cpi0ef _ _ => 0x30#8
  | .cpi1ef _ _ => 0x31#8
  | .cpi2ef _ _ => 0x32#8
  | .cpi3ef _ _ => 0x33#8
  | .cpi4ef _ _ => 0x34#8
  | .cpi5ef _ _ => 0x35#8
  | .cpi6ef _ _ => 0x36#8
  | .cpi7ef _ _ => 0x37#8
  | .ncpi0ef _ _ => 0x38#8
  | .ncpi1ef _ _ => 0x39#8
  | .ncpi2ef _ _ => 0x3A#8
  | .ncpi3ef _ _ => 0x3B#8
  | .ncpi4ef _ _ => 0x3C#8
  | .ncpi5ef _ _ => 0x3D#8
  | .ncpi6ef _ _ => 0x3E#8
  | .ncpi7ef _ _ => 0x3F#8
  | .halt => 0x40#8
  | .stop => 0x41#8
  | .undFF _ => 0xFF#8

/-- What the family says of an instruction. -/
def Laws.EncodeOpcode.Statement (i : Instr) : Prop := field (encode i) 0 8 = opcodeOf i

theorem Laws.EncodeOpcode.und00 (payload : BitVec 24) :
    Laws.EncodeOpcode.Statement (.und00 payload) := by
  show field (put 0 0x00#8 ||| put 8 payload) 0 8 = 0x00#8
  simp [field_put_same, field_put_other]

theorem Laws.EncodeOpcode.pause (k : BitVec 6) :
    Laws.EncodeOpcode.Statement (.pause k) := by
  show field (put 0 0x01#8 ||| put 8 k) 0 8 = 0x01#8
  simp [field_put_same, field_put_other]

theorem Laws.EncodeOpcode.mov (d s : RegNum) (l : Bool) (c : Cond) (dir : Direction) (m : BitVec 4) :
    Laws.EncodeOpcode.Statement (.mov d s l c dir m) := by
  show field (put 0 0x02#8 ||| put 8 d ||| put 13 s ||| putBit 20 l ||| put 21 (condToBits c)
    ||| putBit 25 (directionToBit dir) ||| put 26 m) 0 8 = 0x02#8
  simp [field_put_same, field_put_other, field_putBit_other]

theorem Laws.EncodeOpcode.st (d s : RegNum) (wd : WidthField) (m : UpdateMode) :
    Laws.EncodeOpcode.Statement (.st d s wd m) := by
  show field (put 0 0x03#8 ||| put 8 d ||| put 13 s ||| put 18 (widthToBits wd)
    ||| put 30 (modeToBits m)) 0 8 = 0x03#8
  simp [field_put_same, field_put_other]

theorem Laws.EncodeOpcode.ld (d s : RegNum) (wd : WidthField) (m : UpdateMode) :
    Laws.EncodeOpcode.Statement (.ld d s wd m) := by
  show field (put 0 0x04#8 ||| put 8 d ||| put 13 s ||| put 18 (widthToBits wd)
    ||| put 30 (modeToBits m)) 0 8 = 0x04#8
  simp [field_put_same, field_put_other]

theorem Laws.EncodeOpcode.ldi (d : RegNum) (x : Bool) (i : BitVec 16) :
    Laws.EncodeOpcode.Statement (.ldi d x i) := by
  show field (put 0 0x05#8 ||| put 8 d ||| putBit 13 x ||| put 16 i) 0 8 = 0x05#8
  simp [field_put_same, field_put_other, field_putBit_other]

theorem Laws.EncodeOpcode.lra (d : RegNum) (x : Bool) (o : BitVec 16) :
    Laws.EncodeOpcode.Statement (.lra d x o) := by
  show field (put 0 0x06#8 ||| put 8 d ||| putBit 13 x ||| put 16 o) 0 8 = 0x06#8
  simp [field_put_same, field_put_other, field_putBit_other]

theorem Laws.EncodeOpcode.addi (d : RegNum) (s c h : Bool) (i : BitVec 16) :
    Laws.EncodeOpcode.Statement (.addi d s c h i) := by
  show field (put 0 0x08#8 ||| put 8 d ||| putBit 13 s ||| putBit 14 c ||| putBit 15 h ||| put 16 i) 0 8 = 0x08#8
  simp [field_put_same, field_put_other, field_putBit_other]

theorem Laws.EncodeOpcode.add (d a b : RegNum) (c : Bool) (s : BitVec 5) (p : Bool) :
    Laws.EncodeOpcode.Statement (.add d a b c s p) := by
  show field (put 0 0x09#8 ||| put 8 d ||| put 13 a ||| put 18 b ||| putBit 23 c ||| put 24 s
    ||| putBit 29 p) 0 8 = 0x09#8
  simp [field_put_same, field_put_other, field_putBit_other]

theorem Laws.EncodeOpcode.sub (d a b : RegNum) (c : Bool) (s : BitVec 5) (p : Bool) :
    Laws.EncodeOpcode.Statement (.sub d a b c s p) := by
  show field (put 0 0x0A#8 ||| put 8 d ||| put 13 a ||| put 18 b ||| putBit 23 c ||| put 24 s
    ||| putBit 29 p) 0 8 = 0x0A#8
  simp [field_put_same, field_put_other, field_putBit_other]

theorem Laws.EncodeOpcode.and (d a b : RegNum) (c : Bool) (s : BitVec 5) (p : Bool) (i : BitVec 2) :
    Laws.EncodeOpcode.Statement (.and d a b c s p i) := by
  show field (put 0 0x0B#8 ||| put 8 d ||| put 13 a ||| put 18 b ||| putBit 23 c ||| put 24 s
    ||| putBit 29 p ||| put 30 i) 0 8 = 0x0B#8
  simp [field_put_same, field_put_other, field_putBit_other]

theorem Laws.EncodeOpcode.or (d a b : RegNum) (c : Bool) (s : BitVec 5) (p : Bool) (i : BitVec 2) :
    Laws.EncodeOpcode.Statement (.or d a b c s p i) := by
  show field (put 0 0x0C#8 ||| put 8 d ||| put 13 a ||| put 18 b ||| putBit 23 c ||| put 24 s
    ||| putBit 29 p ||| put 30 i) 0 8 = 0x0C#8
  simp [field_put_same, field_put_other, field_putBit_other]

theorem Laws.EncodeOpcode.xor (d a b : RegNum) (c : Bool) (s : BitVec 5) (p : Bool) (i : BitVec 2) :
    Laws.EncodeOpcode.Statement (.xor d a b c s p i) := by
  show field (put 0 0x0D#8 ||| put 8 d ||| put 13 a ||| put 18 b ||| putBit 23 c ||| put 24 s
    ||| putBit 29 p ||| put 30 i) 0 8 = 0x0D#8
  simp [field_put_same, field_put_other, field_putBit_other]

theorem Laws.EncodeOpcode.fsl (d v q : RegNum) (c x wr : Bool) (r : RegNum) :
    Laws.EncodeOpcode.Statement (.fsl d v q c x wr r) := by
  show field (put 0 0x0E#8 ||| put 8 d ||| put 13 v ||| put 18 q ||| putBit 23 c ||| putBit 24 x
    ||| putBit 26 wr ||| put 27 r) 0 8 = 0x0E#8
  simp [field_put_same, field_put_other, field_putBit_other]

theorem Laws.EncodeOpcode.fsr (d v q : RegNum) (c x wr : Bool) (r : RegNum) :
    Laws.EncodeOpcode.Statement (.fsr d v q c x wr r) := by
  show field (put 0 0x0F#8 ||| put 8 d ||| put 13 v ||| put 18 q ||| putBit 23 c ||| putBit 24 x
    ||| putBit 26 wr ||| put 27 r) 0 8 = 0x0F#8
  simp [field_put_same, field_put_other, field_putBit_other]

theorem Laws.EncodeOpcode.jmp (c : Cond) (l : RegNum) (o : BitVec 15) :
    Laws.EncodeOpcode.Statement (.jmp c l o) := by
  show field (put 0 0x10#8 ||| put 8 (condToBits c) ||| put 12 l ||| put 17 o) 0 8 = 0x10#8
  simp [field_put_same, field_put_other]

theorem Laws.EncodeOpcode.jmpr (c : Cond) (l r : RegNum) :
    Laws.EncodeOpcode.Statement (.jmpr c l r) := by
  show field (put 0 0x11#8 ||| put 8 (condToBits c) ||| put 12 l ||| put 17 r) 0 8 = 0x11#8
  simp [field_put_same, field_put_other]

theorem Laws.EncodeOpcode.portIn (d : RegNum) (p : BitVec 8) (n : BitVec 5) :
    Laws.EncodeOpcode.Statement (.portIn d p n) := by
  show field (put 0 0x14#8 ||| put 8 d ||| put 13 p ||| put 27 n) 0 8 = 0x14#8
  simp [field_put_same, field_put_other]

theorem Laws.EncodeOpcode.portOut (s : RegNum) (p : BitVec 8) (n : BitVec 5) :
    Laws.EncodeOpcode.Statement (.portOut s p n) := by
  show field (put 0 0x15#8 ||| put 8 s ||| put 13 p ||| put 27 n) 0 8 = 0x15#8
  simp [field_put_same, field_put_other]

theorem Laws.EncodeOpcode.ldflags (d : RegNum) :
    Laws.EncodeOpcode.Statement (.ldflags d) := by
  show field (put 0 0x18#8 ||| put 8 d) 0 8 = 0x18#8
  simp [field_put_same, field_put_other]

theorem Laws.EncodeOpcode.stflags (s : RegNum) :
    Laws.EncodeOpcode.Statement (.stflags s) := by
  show field (put 0 0x19#8 ||| put 8 s) 0 8 = 0x19#8
  simp [field_put_same, field_put_other]

theorem Laws.EncodeOpcode.xvp :
    Laws.EncodeOpcode.Statement .xvp := by
  show field (put 0 0x1A#8) 0 8 = 0x1A#8
  simp [field_put_same]

theorem Laws.EncodeOpcode.xchg (a b : RegNum) (l : Bool) (c : Cond) :
    Laws.EncodeOpcode.Statement (.xchg a b l c) := by
  show field (put 0 0x1C#8 ||| put 8 a ||| put 13 b ||| putBit 20 l ||| put 21 (condToBits c)) 0 8 = 0x1C#8
  simp [field_put_same, field_put_other, field_putBit_other]

theorem Laws.EncodeOpcode.ext (d s : RegNum) (x : ExtKind) (n : BitVec 5) :
    Laws.EncodeOpcode.Statement (.ext d s x n) := by
  show field (put 0 0x1D#8 ||| put 8 d ||| put 13 s ||| putBit 18 (extKindToBit x) ||| put 27 n) 0 8 = 0x1D#8
  simp [field_put_same, field_put_other, field_putBit_other]

theorem Laws.EncodeOpcode.cpi0 (f : BitVec 4) (p : BitVec 20) :
    Laws.EncodeOpcode.Statement (.cpi0 f p) := by
  show field (put 0 0x20#8 ||| put 8 f ||| put 12 p) 0 8 = 0x20#8
  simp [field_put_same, field_put_other]

theorem Laws.EncodeOpcode.cpi1 (f : BitVec 4) (p : BitVec 20) :
    Laws.EncodeOpcode.Statement (.cpi1 f p) := by
  show field (put 0 0x21#8 ||| put 8 f ||| put 12 p) 0 8 = 0x21#8
  simp [field_put_same, field_put_other]

theorem Laws.EncodeOpcode.cpi2 (f : BitVec 4) (p : BitVec 20) :
    Laws.EncodeOpcode.Statement (.cpi2 f p) := by
  show field (put 0 0x22#8 ||| put 8 f ||| put 12 p) 0 8 = 0x22#8
  simp [field_put_same, field_put_other]

theorem Laws.EncodeOpcode.cpi3 (f : BitVec 4) (p : BitVec 20) :
    Laws.EncodeOpcode.Statement (.cpi3 f p) := by
  show field (put 0 0x23#8 ||| put 8 f ||| put 12 p) 0 8 = 0x23#8
  simp [field_put_same, field_put_other]

theorem Laws.EncodeOpcode.cpi4 (f : BitVec 4) (p : BitVec 20) :
    Laws.EncodeOpcode.Statement (.cpi4 f p) := by
  show field (put 0 0x24#8 ||| put 8 f ||| put 12 p) 0 8 = 0x24#8
  simp [field_put_same, field_put_other]

theorem Laws.EncodeOpcode.cpi5 (f : BitVec 4) (p : BitVec 20) :
    Laws.EncodeOpcode.Statement (.cpi5 f p) := by
  show field (put 0 0x25#8 ||| put 8 f ||| put 12 p) 0 8 = 0x25#8
  simp [field_put_same, field_put_other]

theorem Laws.EncodeOpcode.cpi6 (f : BitVec 4) (p : BitVec 20) :
    Laws.EncodeOpcode.Statement (.cpi6 f p) := by
  show field (put 0 0x26#8 ||| put 8 f ||| put 12 p) 0 8 = 0x26#8
  simp [field_put_same, field_put_other]

theorem Laws.EncodeOpcode.cpi7 (f : BitVec 4) (p : BitVec 20) :
    Laws.EncodeOpcode.Statement (.cpi7 f p) := by
  show field (put 0 0x27#8 ||| put 8 f ||| put 12 p) 0 8 = 0x27#8
  simp [field_put_same, field_put_other]

theorem Laws.EncodeOpcode.ncpi0 (f : BitVec 4) (p : BitVec 20) :
    Laws.EncodeOpcode.Statement (.ncpi0 f p) := by
  show field (put 0 0x28#8 ||| put 8 f ||| put 12 p) 0 8 = 0x28#8
  simp [field_put_same, field_put_other]

theorem Laws.EncodeOpcode.ncpi1 (f : BitVec 4) (p : BitVec 20) :
    Laws.EncodeOpcode.Statement (.ncpi1 f p) := by
  show field (put 0 0x29#8 ||| put 8 f ||| put 12 p) 0 8 = 0x29#8
  simp [field_put_same, field_put_other]

theorem Laws.EncodeOpcode.ncpi2 (f : BitVec 4) (p : BitVec 20) :
    Laws.EncodeOpcode.Statement (.ncpi2 f p) := by
  show field (put 0 0x2A#8 ||| put 8 f ||| put 12 p) 0 8 = 0x2A#8
  simp [field_put_same, field_put_other]

theorem Laws.EncodeOpcode.ncpi3 (f : BitVec 4) (p : BitVec 20) :
    Laws.EncodeOpcode.Statement (.ncpi3 f p) := by
  show field (put 0 0x2B#8 ||| put 8 f ||| put 12 p) 0 8 = 0x2B#8
  simp [field_put_same, field_put_other]

theorem Laws.EncodeOpcode.ncpi4 (f : BitVec 4) (p : BitVec 20) :
    Laws.EncodeOpcode.Statement (.ncpi4 f p) := by
  show field (put 0 0x2C#8 ||| put 8 f ||| put 12 p) 0 8 = 0x2C#8
  simp [field_put_same, field_put_other]

theorem Laws.EncodeOpcode.ncpi5 (f : BitVec 4) (p : BitVec 20) :
    Laws.EncodeOpcode.Statement (.ncpi5 f p) := by
  show field (put 0 0x2D#8 ||| put 8 f ||| put 12 p) 0 8 = 0x2D#8
  simp [field_put_same, field_put_other]

theorem Laws.EncodeOpcode.ncpi6 (f : BitVec 4) (p : BitVec 20) :
    Laws.EncodeOpcode.Statement (.ncpi6 f p) := by
  show field (put 0 0x2E#8 ||| put 8 f ||| put 12 p) 0 8 = 0x2E#8
  simp [field_put_same, field_put_other]

theorem Laws.EncodeOpcode.ncpi7 (f : BitVec 4) (p : BitVec 20) :
    Laws.EncodeOpcode.Statement (.ncpi7 f p) := by
  show field (put 0 0x2F#8 ||| put 8 f ||| put 12 p) 0 8 = 0x2F#8
  simp [field_put_same, field_put_other]

theorem Laws.EncodeOpcode.cpi0ef (f : BitVec 6) (p : BitVec 18) :
    Laws.EncodeOpcode.Statement (.cpi0ef f p) := by
  show field (put 0 0x30#8 ||| put 8 f ||| put 14 p) 0 8 = 0x30#8
  simp [field_put_same, field_put_other]

theorem Laws.EncodeOpcode.cpi1ef (f : BitVec 6) (p : BitVec 18) :
    Laws.EncodeOpcode.Statement (.cpi1ef f p) := by
  show field (put 0 0x31#8 ||| put 8 f ||| put 14 p) 0 8 = 0x31#8
  simp [field_put_same, field_put_other]

theorem Laws.EncodeOpcode.cpi2ef (f : BitVec 6) (p : BitVec 18) :
    Laws.EncodeOpcode.Statement (.cpi2ef f p) := by
  show field (put 0 0x32#8 ||| put 8 f ||| put 14 p) 0 8 = 0x32#8
  simp [field_put_same, field_put_other]

theorem Laws.EncodeOpcode.cpi3ef (f : BitVec 6) (p : BitVec 18) :
    Laws.EncodeOpcode.Statement (.cpi3ef f p) := by
  show field (put 0 0x33#8 ||| put 8 f ||| put 14 p) 0 8 = 0x33#8
  simp [field_put_same, field_put_other]

theorem Laws.EncodeOpcode.cpi4ef (f : BitVec 6) (p : BitVec 18) :
    Laws.EncodeOpcode.Statement (.cpi4ef f p) := by
  show field (put 0 0x34#8 ||| put 8 f ||| put 14 p) 0 8 = 0x34#8
  simp [field_put_same, field_put_other]

theorem Laws.EncodeOpcode.cpi5ef (f : BitVec 6) (p : BitVec 18) :
    Laws.EncodeOpcode.Statement (.cpi5ef f p) := by
  show field (put 0 0x35#8 ||| put 8 f ||| put 14 p) 0 8 = 0x35#8
  simp [field_put_same, field_put_other]

theorem Laws.EncodeOpcode.cpi6ef (f : BitVec 6) (p : BitVec 18) :
    Laws.EncodeOpcode.Statement (.cpi6ef f p) := by
  show field (put 0 0x36#8 ||| put 8 f ||| put 14 p) 0 8 = 0x36#8
  simp [field_put_same, field_put_other]

theorem Laws.EncodeOpcode.cpi7ef (f : BitVec 6) (p : BitVec 18) :
    Laws.EncodeOpcode.Statement (.cpi7ef f p) := by
  show field (put 0 0x37#8 ||| put 8 f ||| put 14 p) 0 8 = 0x37#8
  simp [field_put_same, field_put_other]

theorem Laws.EncodeOpcode.ncpi0ef (f : BitVec 6) (p : BitVec 18) :
    Laws.EncodeOpcode.Statement (.ncpi0ef f p) := by
  show field (put 0 0x38#8 ||| put 8 f ||| put 14 p) 0 8 = 0x38#8
  simp [field_put_same, field_put_other]

theorem Laws.EncodeOpcode.ncpi1ef (f : BitVec 6) (p : BitVec 18) :
    Laws.EncodeOpcode.Statement (.ncpi1ef f p) := by
  show field (put 0 0x39#8 ||| put 8 f ||| put 14 p) 0 8 = 0x39#8
  simp [field_put_same, field_put_other]

theorem Laws.EncodeOpcode.ncpi2ef (f : BitVec 6) (p : BitVec 18) :
    Laws.EncodeOpcode.Statement (.ncpi2ef f p) := by
  show field (put 0 0x3A#8 ||| put 8 f ||| put 14 p) 0 8 = 0x3A#8
  simp [field_put_same, field_put_other]

theorem Laws.EncodeOpcode.ncpi3ef (f : BitVec 6) (p : BitVec 18) :
    Laws.EncodeOpcode.Statement (.ncpi3ef f p) := by
  show field (put 0 0x3B#8 ||| put 8 f ||| put 14 p) 0 8 = 0x3B#8
  simp [field_put_same, field_put_other]

theorem Laws.EncodeOpcode.ncpi4ef (f : BitVec 6) (p : BitVec 18) :
    Laws.EncodeOpcode.Statement (.ncpi4ef f p) := by
  show field (put 0 0x3C#8 ||| put 8 f ||| put 14 p) 0 8 = 0x3C#8
  simp [field_put_same, field_put_other]

theorem Laws.EncodeOpcode.ncpi5ef (f : BitVec 6) (p : BitVec 18) :
    Laws.EncodeOpcode.Statement (.ncpi5ef f p) := by
  show field (put 0 0x3D#8 ||| put 8 f ||| put 14 p) 0 8 = 0x3D#8
  simp [field_put_same, field_put_other]

theorem Laws.EncodeOpcode.ncpi6ef (f : BitVec 6) (p : BitVec 18) :
    Laws.EncodeOpcode.Statement (.ncpi6ef f p) := by
  show field (put 0 0x3E#8 ||| put 8 f ||| put 14 p) 0 8 = 0x3E#8
  simp [field_put_same, field_put_other]

theorem Laws.EncodeOpcode.ncpi7ef (f : BitVec 6) (p : BitVec 18) :
    Laws.EncodeOpcode.Statement (.ncpi7ef f p) := by
  show field (put 0 0x3F#8 ||| put 8 f ||| put 14 p) 0 8 = 0x3F#8
  simp [field_put_same, field_put_other]

theorem Laws.EncodeOpcode.halt :
    Laws.EncodeOpcode.Statement .halt := by
  show field (put 0 0x40#8) 0 8 = 0x40#8
  simp [field_put_same]

theorem Laws.EncodeOpcode.stop :
    Laws.EncodeOpcode.Statement .stop := by
  show field (put 0 0x41#8) 0 8 = 0x41#8
  simp [field_put_same]

theorem Laws.EncodeOpcode.undFF (payload : BitVec 24) :
    Laws.EncodeOpcode.Statement (.undFF payload) := by
  show field (put 0 0xFF#8 ||| put 8 payload) 0 8 = 0xFF#8
  simp [field_put_same, field_put_other]

end Sys2Proof
end

