-- ==== Sys2Proof/Laws/Steps.lean ====
section
/-! SUPPORT. What one step can do: by input, by Tick, by fetch. -/

namespace Sys2Proof.Machine

/-- m = 3 is exactly what leaves priority 3 open (60_exceptions.md R302). -/
theorem State.blocks_three (s : State) : s.blocks 3 = false ↔ s.mask = 3#2 := by
  have h := s.mask.isLt
  simp only [State.blocks, decide_eq_false_iff_not]
  constructor
  · intro hm
    apply BitVec.eq_of_toNat_eq
    simp only [BitVec.toNat_ofNat]
    omega
  · intro hm
    simp [hm]

theorem State.nextInput_of_nil {s : State} (h : s.inputs = []) : s.nextInput = s := by
  cases s
  simp_all [State.nextInput]

/-- A step whose input is a Tick, given or by default. -/
theorem step_of_tick (s : State) (h : s.inputs = [] ∨ s.inputs.head? = some .tick) : step s = s.nextInput.tick := by
  rcases h with h | h
  · rw [State.nextInput_of_nil h]
    simp only [step, State.cycle, h]
  · cases hi : s.inputs with
    | nil => simp [hi] at h
    | cons i rest =>
      obtain rfl : i = .tick := by simpa [hi] using h
      simp only [step, State.cycle, hi, State.nextInput, List.tail_cons]

theorem step_of_reset {s : State} {rest : List Input} (h : s.inputs = .reset :: rest) :
    step s = .next s.nextInput.enterReset := by
  simp only [step, State.cycle, h, State.nextInput, List.tail_cons]

theorem step_of_event {s : State} {e : Event} {rest : List Input} (h : s.inputs = .event e :: rest) :
    step s = .next (s.nextInput.acceptEvent e) := by
  simp only [step, State.cycle, h, State.nextInput, List.tail_cons]

/-- The four things a step can be, by its input. -/
theorem step_cases (s : State) :
    ((s.inputs = [] ∨ s.inputs.head? = some .tick) ∧ step s = s.nextInput.tick) ∨
    (∃ rest, s.inputs = .reset :: rest ∧ step s = .next s.nextInput.enterReset) ∨
    (∃ e rest, s.inputs = .event e :: rest ∧ step s = .next (s.nextInput.acceptEvent e)) := by
  cases hi : s.inputs with
  | nil => exact .inl ⟨.inl rfl, step_of_tick s (.inl hi)⟩
  | cons i rest =>
    cases i with
    | tick => exact .inl ⟨.inr rfl, step_of_tick s (.inr (by simp [hi]))⟩
    | reset => exact .inr (.inl ⟨rest, rfl, step_of_reset hi⟩)
    | event e => exact .inr (.inr ⟨e, rest, rfl, step_of_event hi⟩)

/-- The three things a Tick can be: nothing, while stopped or halted; the delivery of the oldest pending IRQ; an
instruction (R320). -/
theorem State.tick_cases (s : State) :
    (s.status ≠ .executing ∧ s.tick = .next s) ∨
    (∃ v rest, s.status ≠ .stopped ∧ s.mask = 3#2 ∧ s.irqBuffer = v :: rest ∧
      s.tick = .next ({ s with irqBuffer := rest }.deliverEvent (.irq v) s.pc)) ∨
    (s.status = .executing ∧ (s.mask ≠ 3#2 ∨ s.irqBuffer = []) ∧ s.tick = s.runInstruction) := by
  unfold State.tick
  by_cases h : s.status = .stopped
  · exact .inl ⟨by simp [h], by simp [h]⟩
  simp only [h, if_false]
  split
  · rename_i v rest hb hq
    exact .inr (.inl ⟨v, rest, h, (s.blocks_three).1 hb, hq, rfl⟩)
  · rename_i hnot
    by_cases he : s.status = .executing
    · refine .inr (.inr ⟨he, ?_, by simp [he]⟩)
      by_cases hm : s.mask = 3#2
      · right
        cases hq : s.irqBuffer with
        | nil => rfl
        | cons v rest => exact absurd hq (hnot v rest ((s.blocks_three).2 hm))
      · exact .inl hm
    · exact .inl ⟨he, by simp [he]⟩

/-- A Tick that runs an instruction. -/
theorem State.tick_of_executing {s : State} (h : s.status = .executing) (hq : s.mask ≠ 3#2 ∨ s.irqBuffer = []) :
    s.tick = s.runInstruction := by
  rcases s.tick_cases with ⟨h', -⟩ | ⟨v, rest, -, hm, hb, -⟩ | ⟨-, -, e⟩
  · exact absurd h h'
  · rcases hq with hq | hq
    · exact absurd hm hq
    · simp [hq] at hb
  · exact e

/-- A Tick of a halted CPU with nothing to deliver. -/
theorem State.tick_of_halted {s : State} (h : s.status = .halted) (hq : s.mask ≠ 3#2 ∨ s.irqBuffer = []) :
    s.tick = .next s := by
  rcases s.tick_cases with ⟨-, e⟩ | ⟨v, rest, -, hm, hb, -⟩ | ⟨h', -⟩
  · exact e
  · rcases hq with hq | hq
    · exact absurd hm hq
    · simp [hq] at hb
  · simp [h] at h'

/-- The step of a state that runs an instruction next. -/
theorem step_of_runsNext {s : State} (h : s.RunsNext) : step s = s.nextInput.runInstruction := by
  rw [step_of_tick s h.1]
  exact State.tick_of_executing h.2.1 h.2.2

/-- What running the instruction at the pc can do (30_encoding.md R111, 60_exceptions.md R345). -/
theorem State.runInstruction_cases (s : State) :
    (aligned s.pc .word = false ∧ s.runInstruction = .fault .misalignedFetch) ∨
    (s.runInstruction = .next (s.raise .busFault)) ∨
    (s.runInstruction = .next (s.raise .invalidInstruction)) ∨
    (∃ i, decode s.fetchWord = .ok i ∧ s.runInstruction = exec i s) := by
  unfold State.runInstruction
  cases ha : aligned s.pc .word with
  | false => exact .inl ⟨rfl, by simp⟩
  | true =>
    right
    cases ho : s.busOK s.pc .word .fetch with
    | false => exact .inl (by simp)
    | true =>
      cases hd : decode s.fetchWord with
      | error e => exact .inr (.inl (by simp))
      | ok i => exact .inr (.inr ⟨i, rfl, by simp⟩)

end Sys2Proof.Machine
end

