-- ==== Sys2Proof/Tests/Slice0.lean ====
section
/-! SUPPORT. Tests: ill-formed terms, decoded words, one-step results, all taken from the examples of spec/ or computed by hand
from its field positions; and for every statement with hypotheses a state that meets them. -/

namespace Sys2Proof.Tests

open Sys2Proof Sys2Proof.Machine

/-! ### Well-formedness: an ill-formed term for each check, refused (30_encoding.md R109) -/

theorem test_wf_refuses_update_mode : (Instr.st 2#5 1#5 .word .illegal).wf = false ∧
    (Instr.ld 3#5 2#5 .word .illegal).wf = false := by decide

theorem test_wf_refuses_base_register : (Instr.st 0#5 1#5 .word .none).wf = false ∧
    (Instr.ld 3#5 0#5 .word .none).wf = false := by decide

theorem test_wf_refuses_width : (Instr.st 2#5 1#5 .eight .none).wf = false ∧
    (Instr.ld 3#5 2#5 .eight .none).wf = false := by decide

theorem test_wf_refuses_map_registers :
    (Instr.mov 12#5 1#5 false .never .toMap 1#4).wf = false ∧ (Instr.mov 1#5 30#5 false .never .fromMap 1#4).wf = false ∧
    (Instr.mov 0#5 1#5 false .never .toMap 3#4).wf = false ∧ (Instr.mov 1#5 8#5 false .never .fromMap 4#4).wf = false ∧
    (Instr.mov 31#5 1#5 false .never .toMap 4#4).wf = false ∧ (Instr.mov 1#5 0#5 false .never .fromMap 5#4).wf = false :=
  by decide

theorem test_wf_accepts : (Instr.st 2#5 1#5 .word .preDec).wf = true ∧ (Instr.ld 0#5 2#5 .byte .postInc).wf = true ∧
    (Instr.mov 1#5 31#5 false .always .fromMap 4#4).wf = true ∧ (Instr.mov 31#5 1#5 false .always .toMap 1#4).wf = true ∧
    (Instr.mov 1#5 0#5 false .always .fromMap 3#4).wf = true := by decide

/-! ### Decoding: words of the spec's examples, or written out from the field positions of R103 -/

theorem test_decode_und :
    decode 0x12345600#32 = .ok (.und00 0x123456#24) ∧
    decode 0xFFFFFFFF#32 = .ok (.undFF 0xFFFFFF#24) := by decide

theorem test_decode_pause :
    decode 0x00000501#32 = .ok (.pause 5#6) := by decide

theorem test_decode_mov :
    decode 0x01E08302#32 = .ok (.mov 3#5 4#5 false .always .fromMap 0#4) ∧
    decode 0x07E0BF02#32 = .ok (.mov 31#5 5#5 false .always .toMap 1#4) ∧
    decode 0x3DB08302#32 = .ok (.mov 3#5 4#5 true .notZero .fromMap 15#4) := by decide

theorem test_decode_st :
    decode 0x00082203#32 = .ok (.st 2#5 1#5 .word .none) ∧
    decode 0x40002203#32 = .ok (.st 2#5 1#5 .byte .postInc) ∧
    decode 0xC0042203#32 = .ok (.st 2#5 1#5 .half .preDec) := by decide

theorem test_decode_ld :
    decode 0x00084304#32 = .ok (.ld 3#5 2#5 .word .none) ∧
    decode 0x40004304#32 = .ok (.ld 3#5 2#5 .byte .postInc) ∧
    decode 0xC0044304#32 = .ok (.ld 3#5 2#5 .half .preDec) := by decide

theorem test_decode_ldi_lra :
    decode 0x12340105#32 = .ok (.ldi 1#5 false 0x1234#16) ∧
    decode 0x80002105#32 = .ok (.ldi 1#5 true 0x8000#16) ∧
    decode 0x00100406#32 = .ok (.lra 4#5 false 0x10#16) ∧
    decode 0xFFF82406#32 = .ok (.lra 4#5 true 0xFFF8#16) := by decide

theorem test_decode_addi :
    decode 0xFFFF2108#32 = .ok (.addi 1#5 true false false 0xFFFF#16) ∧
    decode 0x1234C108#32 = .ok (.addi 1#5 false true true 0x1234#16) := by decide

theorem test_decode_add_sub :
    decode 0x24082309#32 = .ok (.add 3#5 1#5 2#5 false 4#5 true) ∧
    decode 0x00882309#32 = .ok (.add 3#5 1#5 2#5 true 0#5 false) ∧
    decode 0x0008230A#32 = .ok (.sub 3#5 1#5 2#5 false 0#5 false) := by decide

theorem test_decode_logic :
    decode 0x8008230B#32 = .ok (.and 3#5 1#5 2#5 false 0#5 false 2#2) ∧
    decode 0x4000230C#32 = .ok (.or 3#5 1#5 0#5 false 0#5 false 1#2) ∧
    decode 0x8808230D#32 = .ok (.xor 3#5 1#5 2#5 false 8#5 false 2#2) := by decide

theorem test_decode_funnel :
    decode 0x2408230E#32 = .ok (.fsl 3#5 1#5 2#5 false false true 4#5) ∧
    decode 0x0108230F#32 = .ok (.fsr 3#5 1#5 2#5 false true false 0#5) := by decide

theorem test_decode_jumps :
    decode 0x0021FF10#32 = .ok (.jmp .always 31#5 16#15) ∧
    decode 0xFFFC0F10#32 = .ok (.jmp .always 0#5 0x7FFE#15) ∧
    decode 0x000BFF11#32 = .ok (.jmpr .always 31#5 5#5) ∧
    decode 0x000A0D11#32 = .ok (.jmpr .notZero 0#5 5#5) := by decide

theorem test_decode_ports :
    decode 0xF8020114#32 = .ok (.portIn 1#5 0x10#8 31#5) ∧
    decode 0xF81FE115#32 = .ok (.portOut 1#5 0xFF#8 31#5) := by decide

theorem test_decode_flags :
    decode 0x00000118#32 = .ok (.ldflags 1#5) ∧
    decode 0x00000119#32 = .ok (.stflags 1#5) ∧
    decode 0x0000001A#32 = .ok .xvp := by decide

theorem test_decode_xchg_ext :
    decode 0x0040411C#32 = .ok (.xchg 1#5 2#5 false .zero) ∧
    decode 0x4000231D#32 = .ok (.ext 3#5 1#5 .sign 8#5) ∧
    decode 0x4004231D#32 = .ok (.ext 3#5 1#5 .zero 8#5) := by decide

theorem test_decode_halt_stop :
    decode 0x00000040#32 = .ok .halt ∧
    decode 0x00000041#32 = .ok .stop := by decide

theorem test_decode_cpi :
    decode 0x12345320#32 = .ok (.cpi0 3#4 0x12345#20) ∧
    decode 0x12346421#32 = .ok (.cpi1 4#4 0x12346#20) ∧
    decode 0x12347522#32 = .ok (.cpi2 5#4 0x12347#20) ∧
    decode 0x12348623#32 = .ok (.cpi3 6#4 0x12348#20) ∧
    decode 0x12349724#32 = .ok (.cpi4 7#4 0x12349#20) ∧
    decode 0x1234A825#32 = .ok (.cpi5 8#4 0x1234A#20) ∧
    decode 0x1234B926#32 = .ok (.cpi6 9#4 0x1234B#20) ∧
    decode 0x1234CA27#32 = .ok (.cpi7 10#4 0x1234C#20) := by decide

theorem test_decode_ncpi :
    decode 0x12345328#32 = .ok (.ncpi0 3#4 0x12345#20) ∧
    decode 0x12346429#32 = .ok (.ncpi1 4#4 0x12346#20) ∧
    decode 0x1234752A#32 = .ok (.ncpi2 5#4 0x12347#20) ∧
    decode 0x1234862B#32 = .ok (.ncpi3 6#4 0x12348#20) ∧
    decode 0x1234972C#32 = .ok (.ncpi4 7#4 0x12349#20) ∧
    decode 0x1234A82D#32 = .ok (.ncpi5 8#4 0x1234A#20) ∧
    decode 0x1234B92E#32 = .ok (.ncpi6 9#4 0x1234B#20) ∧
    decode 0x1234CA2F#32 = .ok (.ncpi7 10#4 0x1234C#20) := by decide

theorem test_decode_cpi_ef :
    decode 0x7FFFEA30#32 = .ok (.cpi0ef 0x2A#6 0x1FFFF#18) ∧
    decode 0x7FFFA931#32 = .ok (.cpi1ef 0x29#6 0x1FFFE#18) ∧
    decode 0x7FFF6832#32 = .ok (.cpi2ef 0x28#6 0x1FFFD#18) ∧
    decode 0x7FFF2733#32 = .ok (.cpi3ef 0x27#6 0x1FFFC#18) ∧
    decode 0x7FFEE634#32 = .ok (.cpi4ef 0x26#6 0x1FFFB#18) ∧
    decode 0x7FFEA535#32 = .ok (.cpi5ef 0x25#6 0x1FFFA#18) ∧
    decode 0x7FFE6436#32 = .ok (.cpi6ef 0x24#6 0x1FFF9#18) ∧
    decode 0x7FFE2337#32 = .ok (.cpi7ef 0x23#6 0x1FFF8#18) := by decide

theorem test_decode_ncpi_ef :
    decode 0x7FFFEA38#32 = .ok (.ncpi0ef 0x2A#6 0x1FFFF#18) ∧
    decode 0x7FFFA939#32 = .ok (.ncpi1ef 0x29#6 0x1FFFE#18) ∧
    decode 0x7FFF683A#32 = .ok (.ncpi2ef 0x28#6 0x1FFFD#18) ∧
    decode 0x7FFF273B#32 = .ok (.ncpi3ef 0x27#6 0x1FFFC#18) ∧
    decode 0x7FFEE63C#32 = .ok (.ncpi4ef 0x26#6 0x1FFFB#18) ∧
    decode 0x7FFEA53D#32 = .ok (.ncpi5ef 0x25#6 0x1FFFA#18) ∧
    decode 0x7FFE643E#32 = .ok (.ncpi6ef 0x24#6 0x1FFF9#18) ∧
    decode 0x7FFE233F#32 = .ok (.ncpi7ef 0x23#6 0x1FFF8#18) := by decide

theorem test_decode_rejects : decode 0x00000007#32 = .error (.unknownOpcode 0x07#8) ∧
    decode 0x00004001#32 = .error (.reservedBitSet 0x01#8) ∧ decode 0x40000009#32 = .error (.reservedBitSet 0x09#8) ∧
    decodeBytes [0x40#8, 0#8, 0#8] = .error .truncated := by decide

/-- The opcode is the byte at the lowest address (R101). -/
theorem test_decode_bytes : decodeBytes [0x05#8, 0x01#8, 0x34#8, 0x12#8] = .ok (.ldi 1#5 false 0x1234#16, []) ∧
    decodeTableWord 32 0x12340105 = some (.ldi 1#5 false 0x1234#16) := by decide

/-! ### One step, from the examples of the instructions' rules -/

/-- r1 and r2 hold the values, the pc is 0x1000. -/
def pair (a b : Word) : State := { (State.reset.writeReg 1#5 a).writeReg 2#5 b with pc := 0x1000#32 }

/-- The state after an instruction that completes. -/
def after (i : Instr) (s : State) : State :=
  match exec i s with
  | .next t => t
  | .fault _ => s
  | .refused _ => s

/-- The flags c, v, n, z of a state. -/
def cvnz (s : State) : Bool × Bool × Bool × Bool := (s.flags.c, s.flags.v, s.flags.n, s.flags.z)

theorem test_pause : (after (.pause 5#6) (pair 0#32 0#32)).pc = 0x1004#32 := by decide

theorem test_add_signed_overflow :
    let t := after (.add 3#5 1#5 2#5 false 0#5 false) (pair 0x7FFFFFFF#32 1#32)
    t.readReg 3#5 = 0x80000000#32 ∧ cvnz t = (false, true, true, false) := by decide

theorem test_add_shifted_first_operand :
    (after (.add 3#5 1#5 2#5 false 4#5 true) (pair 0x10#32 3#32)).readReg 3#5 = 0x103#32 := by decide

theorem test_sub_borrow :
    let t := after (.sub 3#5 1#5 2#5 false 0#5 false) (pair 3#32 5#32)
    t.readReg 3#5 = 0xFFFFFFFE#32 ∧ cvnz t = (true, false, true, false) := by decide

theorem test_sub_overflow :
    let t := after (.sub 3#5 1#5 2#5 false 0#5 false) (pair 0x80000000#32 1#32)
    t.readReg 3#5 = 0x7FFFFFFF#32 ∧ cvnz t = (false, true, false, false) := by decide

theorem test_addi_carry :
    let t := after (.addi 1#5 true false false 0xFFFF#16) (pair 5#32 0#32)
    t.readReg 1#5 = 4#32 ∧ cvnz t = (true, false, false, false) := by decide

theorem test_addi_high_half :
    let t := after (.addi 1#5 false true true 0x1234#16) (pair 0x5678#32 0#32)
    t.readReg 1#5 = 0x12345678#32 ∧ cvnz t = (false, false, false, false) := by decide

theorem test_and_keeps_carry :
    let s := { pair 0xF0F0F0F0#32 0xFF00FF00#32 with flags := flagsOfBits 0b10011#5 }
    let t := after (.and 3#5 1#5 2#5 false 0#5 false 0#2) s
    t.readReg 3#5 = 0xF000F000#32 ∧ t.flags = flagsOfBits 0b10111#5 := by decide

theorem test_or_inverted : (after (.or 3#5 1#5 0#5 false 0#5 false 1#2) (pair 0x12345678#32 0#32)).readReg 3#5 =
    0xEDCBA987#32 := by decide

theorem test_xor_inverts_after_shift :
    (after (.xor 3#5 1#5 2#5 false 8#5 false 2#2) (pair 0#32 0xFF#32)).readReg 3#5 = 0xFFFF00FF#32 := by decide

theorem test_fsl : let s := (pair 0x12345678#32 8#32).writeReg 4#5 0xABCDEF01#32
    (after (.fsl 3#5 1#5 2#5 false false false 4#5) s).readReg 3#5 = 0x345678AB#32 ∧
    (after (.fsl 3#5 1#5 2#5 false false true 4#5) (s.writeReg 2#5 32#32)).readReg 3#5 = 0x12345678#32 := by decide

theorem test_fsr : let s := (pair 0x12345678#32 8#32).writeReg 4#5 0xABCDEF01#32
    (after (.fsr 3#5 1#5 2#5 false false false 4#5) s).readReg 3#5 = 0xAB123456#32 ∧
    (after (.fsr 3#5 1#5 2#5 false true false 0#5) (pair 0x80000000#32 4#32)).readReg 3#5 = 0xF8000000#32 := by decide

theorem test_ldi_lra : (after (.ldi 1#5 true 0x8000#16) (pair 0#32 0#32)).readReg 1#5 = 0xFFFF8000#32 ∧
    (after (.lra 4#5 true 0xFFF8#16) (pair 0#32 0#32)).readReg 4#5 = 0x0FFC#32 := by decide

theorem test_st_pre_decrement :
    let t := after (.st 2#5 1#5 .half .preDec) (pair 0x11223344#32 0x2000#32)
    t.mem = [(0x1FFE, 0x44#8), (0x1FFF, 0x33#8)] ∧ t.readReg 2#5 = 0x1FFE#32 := by decide

/-- The bytes 44 33 22 11 at 0x2000. -/
def filled : State := { pair 0#32 0x2000#32 with mem := memWrite [] 0x2000#32 .word 0x11223344#32 }

theorem test_ld_post_increment : let t := after (.ld 3#5 2#5 .byte .postInc) filled
    t.readReg 3#5 = 0x44#32 ∧ t.readReg 2#5 = 0x2001#32 := by decide

/-- With the destination equal to the base the updated address wins. -/
theorem test_ld_base_wins : (after (.ld 2#5 2#5 .word .postInc) filled).readReg 2#5 = 0x2004#32 := by decide

theorem test_jmp : (after (.jmp .always 31#5 16#15) (pair 0#32 0#32)).pc = 0x1044#32 ∧
    (after (.jmp .always 31#5 16#15) (pair 0#32 0#32)).readReg 31#5 = 0x1004#32 ∧
    (after (.jmp .zero 31#5 16#15) (pair 0#32 0#32)).pc = 0x1004#32 := by decide

theorem test_jmpr_reads_before_link : let t := after (.jmpr .always 1#5 1#5) (pair 0x2000#32 0#32)
    t.pc = 0x2000#32 ∧ t.readReg 1#5 = 0x1004#32 := by decide

theorem test_in : let s := { (pair 0#32 0#32).writeIo 1#5 0x12345678#32 with portAnswers := [0xAB#32] }
    (after (.portIn 1#5 0x10#8 8#5) s).io.get 1 = 0xAB123456#32 := by decide

theorem test_out : let t := after (.portOut 1#5 0xFF#8 31#5) ((pair 0#32 0#32).writeIo 1#5 0x92345678#32)
    t.io.get 1 = 1#32 ∧ t.log = [.portWrite 0xFF#8 31#5 0x12345678#32] := by decide

theorem test_ldflags_stflags : (after (.stflags 1#5) (pair 0x12#32 0#32)).flags = flagsOfBits 0b10010#5 ∧
    (after (.ldflags 1#5) { pair 0xFFFFFFFF#32 0#32 with flags := flagsOfBits 0b10101#5 }).readReg 1#5 = 0x15#32 := by
  decide

theorem test_xvp : (after .xvp { pair 0#32 0#32 with flags := flagsOfBits 0b00010#5 }).flags = flagsOfBits 0b10000#5 := by
  decide

theorem test_xchg_with_r0 : (after (.xchg 0#5 2#5 false .always) (pair 0#32 0x22#32)).readReg 2#5 = 0#32 := by decide

theorem test_ext : (after (.ext 3#5 1#5 .sign 8#5) (pair 0x12345680#32 0#32)).readReg 3#5 = 0xFFFFFF80#32 ∧
    (after (.ext 3#5 1#5 .sign 0#5) (pair 0xFFFFFFFF#32 0#32)).readReg 3#5 = 0#32 := by decide

theorem test_mov_intctl : let t := after (.mov 0#5 1#5 false .always .toMap 1#4) (pair 0x80000003#32 0#32)
    t.mask = 3#2 ∧ t.abort = true ∧ (after (.mov 6#5 0#5 false .always .fromMap 1#4) t).readReg 6#5 = 0x80000003#32 := by
  decide

/-- The table is at 0x1000, its entries 0 to 4, 7, 15, 32 and 63 hold the handlers 0x2000 + 16n, all priorities are
open, coprocessors 0 and 7 are present and 7 is enabled, one IRQ can be buffered. -/
def demo : State := { pair 4#32 0x8001#32 with
  mask := 3#2
  inttab := 0x200#29
  cpe := 0x80#8
  plat := { Platform.bare with
    cpPresent := 0x81#8
    cpRegs := [(7#3, 31#5)]
    cpIllegal := [{ map := 4#4, reg := 7#5, first := 5#32, last := 9#32 }]
    irqCapacity := 1 }
  mem := [0, 1, 2, 3, 4, 7, 15, 32, 63].foldl
    (fun m n => memWrite m (BitVec.ofNat 32 (0x1000 + 8 * n)) .word (BitVec.ofNat 32 (0x2001 + 16 * n))) [] }

theorem test_mov_inttab_raises_consistency : let t := after (.mov 31#5 2#5 false .always .toMap 1#4) demo
    t.pc = 0x2040#32 ∧ t.intret1 = 0x1000#32 ∧ t.mask = 0#2 ∧ t.inttab = 0x200#29 := by decide

theorem test_und_enters_handler : (after (.und00 0#24) demo).pc = 0x2020#32 ∧ (after (.undFF 0#24) demo).mask = 0#2 := by
  decide

/-- m = 0: the abort, with no return address. -/
theorem test_blocked_exception_aborts : let t := after (.und00 0#24) { demo with mask := 0#2 }
    t.pc = 0x2000#32 ∧ t.abort = true ∧ t.intret1 = 0#32 := by decide

theorem test_cpi7_error : let t := after (.cpi7 3#4 0x12345#20) { demo with cpErrors := [true] }
    t.pc = 0x20F0#32 ∧ t.intret2 = 0x1004#32 ∧ t.mask = 1#2 := by decide

theorem test_cpi7_error_blocked : let t := after (.cpi7 3#4 0x12345#20) { demo with cpErrors := [true], mask := 1#2 }
    t.pc = 0x1004#32 ∧ t.log = [.cpPull 7#3 true, .cpWait 7#3, .cpExecute 7#3 (.base 3#4 0x12345#20)] := by decide

theorem test_ncpi7ef : (after (.ncpi7ef 63#6 0x3FFFF#18) demo).log = [.cpExecute 7#3 (.extended 63#6 0x3FFFF#18)] := by
  decide

/-- A disabled coprocessor: EX[3]. -/
theorem test_cpi0_disabled : let t := after (.cpi0 3#4 0#20) demo
    t.pc = 0x2030#32 ∧ t.log = [] := by decide

theorem test_halt_stop : (after .halt demo).status = .halted ∧ (after .halt demo).pc = 0x1004#32 ∧
    (after .stop demo).status = .stopped := by decide

/-- The state after one step that completes. -/
def afterStep (s : State) : State :=
  match step s with
  | .next t => t
  | .fault _ => s
  | .refused _ => s

theorem test_step_runs_placed_word :
    (afterStep (State.reset.withFetchWord 32 0x12340105)).readReg 1#5 = 0x1234#32 ∧
    (afterStep (State.reset.withFetchWord 32 0x12340105)).pc = 0xFF04#32 := by decide

theorem test_irq_wakes_halted : let t := afterStep { demo with status := .halted, inputs := [.event (.irq 0)] }
    t.pc = 0x2200#32 ∧ t.status = .executing ∧ t.intret3 = 0x1000#32 ∧ t.mask = 2#2 := by decide

/-! ### Witnesses: states and operands that meet the hypotheses of the statements -/

/-- The demo state with a word at the pc. -/
def demoWith (w : Nat) : State := demo.withFetchWord 32 w

theorem witness_EncodeOfDecode : decode 0x0000001A#32 = .ok .xvp := by decide

theorem witness_CoprocessorOpcodeStructure : field 0x12345320#32 5 3 = 1#3 ∧ field 0xFFFFFF3F#32 5 3 = 1#3 := by decide

theorem witness_StepRunsDecodedInstruction :
    ((demoWith 1).RunsNext ∧ (demoWith 1).Fetches 1#32 ∧ decode 1#32 = .ok (.pause 0#6)) ∧
    ({ demoWith 1 with inputs := [.tick], mask := 2#2, irqBuffer := [31] } : State).RunsNext := by
  unfold State.RunsNext State.Fetches
  decide

theorem witness_UnknownOpcodeAndUndRaise :
    ((demoWith 0).RunsNext ∧ (demoWith 0).Fetches 0#32) ∧
    ((demoWith 0xFFFFFFFF).RunsNext ∧ (demoWith 0xFFFFFFFF).Fetches 0xFFFFFFFF#32) ∧
    ((demoWith 0x42).RunsNext ∧ (demoWith 0x42).Fetches 0x42#32) ∧
    ((demoWith 0x123456FE).RunsNext ∧ (demoWith 0x123456FE).Fetches 0x123456FE#32) := by
  unfold State.RunsNext State.Fetches
  decide

theorem witness_FetchAndReservedBitChecks :
    (let s := { demo with plat := { demo.plat with
        busHoles := [{ kind := .fetch, width := .word, first := 0x1000#32, last := 0x1000#32 }] } };
      s.RunsNext ∧ aligned s.pc .word = true ∧ s.busOK s.pc .word .fetch = false) ∧
    (reservedBits 0x01#8 = some 0xFFFFC000#32 ∧ (demoWith 0x4001).RunsNext ∧ (demoWith 0x4001).Fetches 0x4001#32 ∧
      field 0x4001#32 0 8 = 0x01#8 ∧ 0x4001#32 &&& 0xFFFFC000#32 ≠ 0#32) ∧
    (reservedBits 0x41#8 = some 0xFFFFFF00#32 ∧ (demoWith 0x80000041).Fetches 0x80000041#32 ∧
      0x80000041#32 &&& 0xFFFFFF00#32 ≠ 0#32) := by
  unfold State.RunsNext State.Fetches
  decide

theorem witness_IllFormedRaises : (Instr.ld 3#5 0#5 .word .none).wf = false := by decide

theorem witness_WaitingCpuKeepsItsState :
    (let s := { demo with status := .stopped, inputs := [.event .nmi] };
      s.status = .stopped ∧ s.inputs.head? ≠ some .reset) ∧
    (let s := { demo with status := .halted, inputs := [.tick], mask := 2#2, irqBuffer := [0] };
      s.status = .halted ∧ (s.inputs = [] ∨ s.inputs.head? = some .tick) ∧ (s.mask ≠ 3#2 ∨ s.irqBuffer = [])) := by
  decide

theorem witness_ResetInputResets : ({ demo with inputs := [.reset] } : State).inputs = .reset :: [] := rfl

theorem witness_ExceptionEntry : demo.mask ≠ 0#2 ∧ demo.EntryHolds (excNumber .busFault).toNat 0x2010#32 ∧
    demo.EntryHolds (excNumber .consistency).toNat 0x2040#32 := by
  unfold State.EntryHolds State.EntryReadable
  decide

/-- The demo state with all priorities but the abort's blocked. -/
def masked : State := { demo with mask := 0#2 }

/-- The demo state with an empty table. -/
def noTable : State := { demo with mem := [] }

/-- The demo state with a table entry whose second word cannot be read. -/
def unreadable (n : Nat) : State := { demo with plat := { demo.plat with
  busHoles := [{ kind := .read, width := .word, first := BitVec.ofNat 32 (0x1004 + 8 * n),
                 last := BitVec.ofNat 32 (0x1004 + 8 * n) }] } }

theorem witness_BlockedExceptionAbortsOrResets :
    (masked.mask = 0#2 ∧ ({ masked with abort := true } : State).abort = true) ∧
    (masked.abort = false ∧ masked.EntryHolds 0 0x2000#32) ∧
    (({ noTable with mask := 0#2 } : State).abort = false ∧ ({ noTable with mask := 0#2 } : State).EntryBad 0) ∧
    (unreadable 0).EntryBad 0 := by
  unfold State.EntryBad State.EntryInvalid State.EntryHolds State.EntryReadable
  decide

/-- The demo state with entry 2 marked not present. -/
def entry2Absent : State := { demo with mem := memWrite demo.mem 0x1010#32 .word 0#32 }

theorem witness_BadEntryOfException :
    (entry2Absent.mask ≠ 0#2 ∧ entry2Absent.EntryBad (excNumber .invalidInstruction).toNat ∧
      entry2Absent.abort = false ∧ entry2Absent.EntryHolds 0 0x2000#32) ∧
    ({ entry2Absent with abort := true } : State).abort = true ∧
    (noTable.mask ≠ 0#2 ∧ noTable.EntryBad (excNumber .invalidInstruction).toNat ∧ noTable.EntryBad 0) := by
  unfold State.EntryBad State.EntryInvalid State.EntryHolds State.EntryReadable
  decide

theorem witness_EventEntry :
    (let s := { demo with mask := 2#2, inputs := [.event .nmi] };
      eventPriority .nmi = 2 ∧ s.inputs = .event .nmi :: [] ∧ s.status ≠ .stopped ∧ 2 ≤ s.mask.toNat ∧
        s.EntryHolds (eventNumber .nmi).toNat 0x2070#32) ∧
    (let s := { demo with status := .halted, inputs := [.event (.unitError 7#3)] };
      eventPriority (.unitError 7#3) = 2 ∧ s.status ≠ .stopped ∧ 2 ≤ s.mask.toNat ∧
        s.EntryHolds (eventNumber (.unitError 7#3)).toNat 0x20F0#32) := by
  unfold State.EntryHolds State.EntryReadable
  decide

theorem witness_BlockedEventDiscarded :
    (let s := { demo with mask := 1#2, inputs := [.event .nmi] };
      eventPriority .nmi = 2 ∧ s.inputs = .event .nmi :: [] ∧ s.mask.toNat < 2) ∧
    (waitingForm (.cpi7ef 0#6 0#18) = some (7#3, .extended 0#6 0#18) ∧ masked.cpe.getLsbD (7#3).toNat = true ∧
      masked.mask.toNat < 2) := by decide

theorem witness_IrqArrival :
    (let s := { demo with inputs := [.event (.irq 31)] };
      s.inputs = .event (.irq 31) :: [] ∧ s.status ≠ .stopped ∧ s.mask = 3#2 ∧ s.irqBuffer = [] ∧
        s.EntryHolds (32 + (31 : IrqNum).val) 0x23F0#32) ∧
    (let s := { demo with mask := 2#2, inputs := [.event (.irq 0)] };
      s.status ≠ .stopped ∧ (s.mask ≠ 3#2 ∨ s.irqBuffer ≠ []) ∧ s.irqBuffer.length < s.plat.irqCapacity) ∧
    (let s := { demo with irqBuffer := [31], inputs := [.event (.irq 0)] };
      s.status ≠ .stopped ∧ (s.mask ≠ 3#2 ∨ s.irqBuffer ≠ []) ∧ s.plat.irqCapacity ≤ s.irqBuffer.length) := by
  unfold State.EntryHolds State.EntryReadable
  decide

theorem witness_BufferedIrqDelivered :
    let s := { demo with status := .halted, irqBuffer := [0] }
    (s.inputs = [] ∨ s.inputs.head? = some .tick) ∧ s.status ≠ .stopped ∧ s.mask = 3#2 ∧ s.irqBuffer = 0 :: [] ∧
      s.EntryHolds (32 + (0 : IrqNum).val) 0x2200#32 := by
  unfold State.EntryHolds State.EntryReadable
  decide

theorem witness_BadEntryOfEvent :
    (eventPriority .nmi ≤ (unreadable 7).mask.toNat ∧ ¬ (unreadable 7).EntryReadable (eventNumber .nmi).toNat ∧
      (unreadable 7).EntryHolds 1 0x2010#32) ∧
    (eventPriority (.irq 1) ≤ demo.mask.toNat ∧ demo.EntryInvalid (eventNumber (.irq 1)).toNat ∧
      demo.EntryHolds 4 0x2040#32) := by
  unfold State.EntryInvalid State.EntryHolds State.EntryReadable
  decide

theorem witness_StepKeepsInv : State.reset.Inv ∧ ({ demo with inputs := [.reset] } : State).Inv ∧
    ∃ t, step { demo with inputs := [.reset] } = .next t :=
  ⟨⟨by decide, by decide, by decide, by decide⟩, ⟨by decide, by decide, by decide, by decide⟩, _, rfl⟩

theorem witness_StepAnswersNext : State.reset.Inv ∧ demo.Inv :=
  ⟨⟨by decide, by decide, by decide, by decide⟩, ⟨by decide, by decide, by decide, by decide⟩⟩

theorem witness_StepKeepsPlatformExtendsLog : ∃ t, step { demo with inputs := [.reset] } = .next t := ⟨_, rfl⟩

theorem witness_OnlyStoresChangeMemory : stores (.pause 0#6) = false ∧ ∃ t, exec (.pause 0#6) demo = .next t :=
  ⟨rfl, _, rfl⟩

theorem witness_OnlyFlagWritersChangeFlags : writesFlags (.pause 0#6) = false ∧
    writesParity (.add 3#5 1#5 2#5 false 0#5 false) = false ∧
    ∃ t, exec (.pause 0#6) demo = .next t ∧ t.resets = demo.resets := ⟨rfl, rfl, _, rfl, rfl⟩

theorem witness_OnlyMovWritesSystemRegisters : movesToMap 1#4 (.pause 0#6) = false ∧
    movesToMap 2#4 (.pause 0#6) = false ∧ transfersBits (.pause 0#6) = false ∧
    movesToMap 4#4 (.pause 0#6) = false ∧ ∃ t, exec (.pause 0#6) demo = .next t ∧ t.resets = demo.resets :=
  ⟨rfl, rfl, rfl, rfl, _, rfl, rfl⟩

theorem witness_OnlyMovRaisesMask : let s := pair 3#32 0#32
    let t := after (.mov 0#5 1#5 false .always .toMap 1#4) s
    exec (.mov 0#5 1#5 false .always .toMap 1#4) s = .next t ∧ s.mask.toNat < t.mask.toNat := ⟨rfl, by decide⟩

theorem witness_LoadInsideStore : 3 + widthBytes .byte ≤ widthBytes .word ∧ 2 + widthBytes .half ≤ widthBytes .word ∧
    0 + widthBytes .word ≤ widthBytes .word ∧ 0 + widthBytes .byte ≤ widthBytes .byte := by decide

theorem witness_LoadResult :
    (let s := pair 0#32 0#32;
      UpdateMode.preDec ≠ .illegal ∧ 2#5 ≠ 0#5 ∧ legalWidth .word = some .word ∧
        aligned (accessAddress (s.readReg 2#5) .word .preDec) .word = true ∧
        s.busOK (accessAddress (s.readReg 2#5) .word .preDec) .word .read = true) ∧
    (let s := pair 0#32 0xFFFFFFFF#32;
      legalWidth .byte = some .byte ∧ aligned (accessAddress (s.readReg 2#5) .byte .postInc) .byte = true ∧
        s.busOK (accessAddress (s.readReg 2#5) .byte .postInc) .byte .read = true) := by decide

theorem witness_StoreResult :
    (let s := pair 0#32 0xFFFFFFFC#32;
      UpdateMode.postInc ≠ .illegal ∧ 2#5 ≠ 0#5 ∧ legalWidth .word = some .word ∧
        aligned (accessAddress (s.readReg 2#5) .word .postInc) .word = true ∧
        s.busOK (accessAddress (s.readReg 2#5) .word .postInc) .word .write = true) ∧
    (let s := pair 0#32 2#32;
      legalWidth .half = some .half ∧ aligned (accessAddress (s.readReg 2#5) .half .none) .half = true ∧
        s.busOK (accessAddress (s.readReg 2#5) .half .none) .half .write = true) := by decide

theorem witness_MemoryAccessTraps :
    (UpdateMode.illegal = .illegal ∧ 0#5 = 0#5 ∧ WidthField.eight = .eight) ∧
    (let s := pair 0#32 0x2002#32;
      UpdateMode.none ≠ .illegal ∧ 2#5 ≠ 0#5 ∧ legalWidth .word = some .word ∧
        (accessAddress (s.readReg 2#5) .word .none).toNat % widthBytes .word ≠ 0) ∧
    ((accessAddress ((pair 0#32 1#32).readReg 2#5) .half .none).toNat % widthBytes .half ≠ 0) ∧
    (let s := { pair 0#32 0x2000#32 with plat := { Platform.bare with
        busHoles := [{ kind := .write, width := .byte, first := 0x2000#32, last := 0x2000#32 },
                     { kind := .read, width := .byte, first := 0x2000#32, last := 0x2000#32 }] } };
      s.busOK (accessAddress (s.readReg 2#5) .byte .none) .byte .write = false ∧
        s.busOK (accessAddress (s.readReg 2#5) .byte .none) .byte .read = false) := by decide

theorem witness_LogicResult : ∃ (i : Instr) (op : Bool → Bool → Bool),
    (i = .and 3#5 1#5 2#5 false 0#5 false 0#2 ∧ op = and) ∨ (i = .or 3#5 1#5 2#5 false 0#5 false 0#2 ∧ op = or) ∨
      (i = .xor 3#5 1#5 2#5 false 0#5 false 0#2 ∧ op = xor) := ⟨_, _, .inr (.inl ⟨rfl, rfl⟩)⟩

theorem witness_jump_conditions : checkCondition demo.flags .notZero = true ∧ checkCondition demo.flags .zero = false := by
  decide

theorem witness_JumpRegisterResult : (demo.readReg 2#5).toNat % 4 ≠ 0 ∧ (demo.readReg 1#5).toNat % 4 = 0 ∧
    field 0x000BFF11#32 0 8 = 0x11#8 ∧ field 0x000BFF11#32 22 10 = 0#10 ∧
    (demoWith 0x400011).RunsNext ∧ (demoWith 0x400011).Fetches 0x400011#32 ∧
    0x400011#32 &&& 0xFFC00000#32 ≠ 0#32 := by
  unfold State.RunsNext State.Fetches
  decide

theorem witness_MoveToSystemRegister : (demo.readReg 1#5).toNat % 2 ^ 31 = 4 ∧ ¬ (demo.readReg 1#5).toNat % 2 ^ 31 < 4 ∧
    ((pair 0x80000003#32 0#32).readReg 1#5).toNat % 2 ^ 31 < 4 ∧ (demo.readReg 2#5).toNat % 8 ≠ 0 := by decide

theorem witness_MoveAccessTraps :
    12 ≤ (12#5).toNat ∧ (30#5).toNat ≤ 30 ∧ 8 ≤ (8#5).toNat ∧ (29#5).toNat ≤ 29 ∧
    demo.cpe.getLsbD (0#3).toNat = false ∧ demo.plat.cpPresent.getLsbD (1#3).toNat = false ∧
    demo.cpe.getLsbD (7#3).toNat = true ∧ (7#3, 30#5) ∉ demo.plat.cpRegs := by decide

theorem witness_MoveCoprocessorRegister :
    demo.cpe.getLsbD (7#3).toNat = true ∧ demo.plat.cpPresent.getLsbD (7#3).toNat = true ∧
    (7#3, 31#5) ∈ demo.plat.cpRegs ∧ checkCondition demo.flags .always = true ∧
    demo.cpValueValid 4#4 7#5 (demo.readReg 1#5) = true ∧
    ({ demo with regs := demo.regs.set 1 5#32 } : State).cpValueValid 4#4 7#5 5#32 = false ∧
    demo.cpValueValid 4#4 7#5 9#32 = false ∧ demo.cpValueValid 4#4 7#5 10#32 = true := by decide

theorem witness_LoadAndStoreFlagsResult : field 0x118#32 13 19 = 0#19 ∧ field 0x118#32 0 8 = 0x18#8 ∧
    field 0x119#32 0 8 = 0x19#8 ∧ (demoWith 0x2018).RunsNext ∧ (demoWith 0x2018).Fetches 0x2018#32 ∧
    0x2018#32 &&& 0xFFFFE000#32 ≠ 0#32 := by
  unfold State.RunsNext State.Fetches
  decide

theorem witness_ExchangeFlagsResult : (∃ t u, exec .xvp demo = .next t ∧ exec .xvp t = .next u) ∧
    (demoWith 0x11A).RunsNext ∧ (demoWith 0x11A).Fetches 0x11A#32 ∧ 0x11A#32 &&& 0xFFFFFF00#32 ≠ 0#32 := by
  refine ⟨⟨_, _, rfl, rfl⟩, ?_⟩
  unfold State.RunsNext State.Fetches
  decide

theorem witness_ExchangeRegistersResult : field 0x0040411C#32 0 8 = 0x1C#8 ∧ field 0x0040411C#32 18 2 = 0#2 ∧
    field 0x0040411C#32 25 7 = 0#7 ∧ (demoWith 0x4001C).RunsNext ∧ (demoWith 0x4001C).Fetches 0x4001C#32 ∧
    0x4001C#32 &&& 0xFE0C0000#32 ≠ 0#32 := by
  unfold State.RunsNext State.Fetches
  decide

theorem witness_DisabledCoprocessorRaises : waitingForm (.cpi0 3#4 0#20) = some (0#3, .base 3#4 0#20) ∧
    nonWaitingForm (.ncpi6ef 3#6 0#18) = some (6#3, .extended 3#6 0#18) ∧
    demo.cpe.getLsbD (0#3).toNat = false ∧ demo.cpe.getLsbD (6#3).toNat = false := by decide

theorem witness_InvokeResult : nonWaitingForm (.ncpi7 15#4 0xFFFFF#20) = some (7#3, .base 15#4 0xFFFFF#20) ∧
    demo.cpe.getLsbD (7#3).toNat = true := by decide

theorem witness_InvokeAndWaitResult : waitingForm (.cpi7 0#4 0#20) = some (7#3, .base 0#4 0#20) ∧
    demo.cpe.getLsbD (7#3).toNat = true ∧
    false = ({ demo with cpErrors := [false] } : State).cpErrors.headD true ∧
    true = ({ demo with cpErrors := [true] } : State).cpErrors.headD false ∧
    ({ demo with mask := 1#2 } : State).mask.toNat < 2 ∧ 2 ≤ ({ demo with mask := 2#2 } : State).mask.toNat ∧
    demo.EntryHolds (8 + (7#3).toNat) 0x20F0#32 := by
  unfold State.EntryHolds State.EntryReadable
  decide

theorem witness_UndefinedInstructionEntry : demo.mask ≠ 0#2 ∧ demo.EntryHolds 2 0x2020#32 ∧
    ({ demo with mask := 1#2 } : State).mask ≠ 0#2 := by
  unfold State.EntryHolds State.EntryReadable
  decide

theorem witness_PauseResult : field 0x501#32 0 8 = 0x01#8 ∧ field 0x501#32 14 18 = 0#18 ∧
    (demoWith 0x80000001).RunsNext ∧ (demoWith 0x80000001).Fetches 0x80000001#32 ∧
    0x80000001#32 &&& 0xFFFFC000#32 ≠ 0#32 := by
  unfold State.RunsNext State.Fetches
  decide

theorem witness_HaltAndStopResult : demo.status = .executing ∧
    (∃ t, exec .halt demo = .next t ∧ t.status ≠ .executing) ∧ (∃ t, exec .stop demo = .next t ∧ t.status ≠ .executing) :=
  ⟨rfl, ⟨_, rfl, by decide⟩, ⟨_, rfl, by decide⟩⟩

end Sys2Proof.Tests
end

section
/-! Words the decoder rejects, words of UND, and the step that fetches them (30_encoding.md R106, R107, R111). -/

namespace Sys2Proof.Machine

/-! ### The decoder on the opcodes 00 and FF and on the undefined ones -/

/-- The 197 opcodes that R106 leaves undefined. -/
def UndefinedOpcode (op : BitVec 8) : Prop :=
  op = 0x07#8 ∨ op = 0x12#8 ∨ op = 0x13#8 ∨ op = 0x16#8 ∨ op = 0x17#8 ∨ op = 0x1B#8 ∨ op = 0x1E#8 ∨ op = 0x1F#8 ∨
    (0x42 ≤ op.toNat ∧ op.toNat ≤ 0xFE)

/-- A word of opcode 00 is UND, whatever its payload. -/
theorem decode_of_opcode_00 {w : Word} (h : field w 0 8 = 0x00#8) : decode w = .ok (.und00 (field w 8 24)) := by
  simp [decode, h]

/-- A word of opcode FF is UND, whatever its payload. -/
theorem decode_of_opcode_FF {w : Word} (h : field w 0 8 = 0xFF#8) : decode w = .ok (.undFF (field w 8 24)) := by
  simp [decode, h]

/-- A word of an undefined opcode is rejected by name: no row of the decoder has its opcode, so the decoder answers by
its last case (`h_60`). -/
theorem decode_of_undefinedOpcode {w : Word} (h : UndefinedOpcode (field w 0 8)) :
    decode w = .error (.unknownOpcode (field w 0 8)) := by
  simp only [UndefinedOpcode, ← BitVec.toNat_inj, BitVec.toNat_ofNat] at h
  unfold decode
  split
  case h_60 => rfl
  all_goals omega

/-! ### Running a fetched word -/

/-- Taking an input changes nothing that a fetch depends on. -/
theorem State.Fetches.nextInput {s : State} {w : Word} (h : s.Fetches w) : s.nextInput.Fetches w := h

/-- A fetched word that decodes is executed. -/
theorem State.runInstruction_of_decode_ok {s : State} {w : Word} {i : Instr} (hf : s.Fetches w)
    (hd : decode w = .ok i) : s.runInstruction = exec i s := by
  obtain ⟨haligned, hbus, rfl⟩ := hf
  simp [State.runInstruction, haligned, hbus, hd]

/-- A fetched word that the decoder rejects raises EX[2]. -/
theorem State.runInstruction_of_decode_error {s : State} {w : Word} {e : DecodeError} (hf : s.Fetches w)
    (hd : decode w = .error e) : s.runInstruction = .next (s.raise .invalidInstruction) := by
  obtain ⟨haligned, hbus, rfl⟩ := hf
  simp [State.runInstruction, haligned, hbus, hd]

theorem exec_und00 (payload : BitVec 24) (s : State) :
    exec (.und00 payload) s = .next (s.raise .invalidInstruction) := rfl

theorem exec_undFF (payload : BitVec 24) (s : State) :
    exec (.undFF payload) s = .next (s.raise .invalidInstruction) := rfl

/-! ### The obligation -/

/-- Settles O7, by the three ways the decoder answers: UND of either opcode executes to EX[2], and an undefined opcode
is rejected, which raises EX[2]. -/
theorem unknownOpcodeAndUndRaise : Obligations.UnknownOpcodeAndUndRaise := by
  refine ⟨fun s w hruns hfetch hop => ?_, decode_of_opcode_00 (by decide), decode_of_opcode_FF (by decide)⟩
  rw [step_of_runsNext hruns]
  have hfetch' : s.nextInput.Fetches w := hfetch.nextInput
  rcases hop with h00 | hFF | hundefined
  · rw [State.runInstruction_of_decode_ok hfetch' (decode_of_opcode_00 h00), exec_und00]
  · rw [State.runInstruction_of_decode_ok hfetch' (decode_of_opcode_FF hFF), exec_undFF]
  · exact State.runInstruction_of_decode_error hfetch' (decode_of_undefinedOpcode hundefined)

end Sys2Proof.Machine
end

section
/-! The sixteen condition codes: names and numbers, formulas, complements and truth table (45_branch.md R200, R201). -/

namespace Sys2Proof.Machine

/-! ### The formulas of the codes that read two or three flags -/

theorem checkCondition_carryOrEqual (f : Flags) :
    checkCondition f .carryOrEqual = true ↔ f.c = true ∨ f.z = true := by simp [checkCondition]

theorem checkCondition_signedLess (f : Flags) :
    checkCondition f .signedLess = true ↔ f.v = f.n ∧ f.z = false := by simp [checkCondition]

theorem checkCondition_signedLessOrEq (f : Flags) :
    checkCondition f .signedLessOrEq = true ↔ f.v = f.n ∨ f.z = true := by simp [checkCondition]

/-! ### Complements -/

/-- The condition that stands opposite in R201's pairs of exact complements. -/
def complementCond : Cond → Cond
  | .never => .always | .carry => .notCarry | .zero => .notZero | .overflow => .notOverflow
  | .carryOrEqual => .above | .signedLess => .signedGreaterOrEq | .signedLessOrEq => .signedGreater
  | .negative => .positive | .positive => .negative | .signedGreater => .signedLessOrEq
  | .signedGreaterOrEq => .signedLess | .above => .carryOrEqual | .notOverflow => .overflow
  | .notZero => .zero | .notCarry => .carry | .always => .never

/-- The numbers of a pair add up to 15. -/
theorem condOfBits_fifteen_sub : ∀ cc : BitVec 4, condOfBits (15#4 - cc) = complementCond (condOfBits cc) := by decide

theorem checkCondition_complementCond (f : Flags) (c : Cond) :
    checkCondition f (complementCond c) = !checkCondition f c := by
  cases c <;> simp [complementCond, checkCondition]

theorem checkCondition_complementCond_iff (f : Flags) (c : Cond) :
    checkCondition f (complementCond c) = true ↔ ¬ checkCondition f c = true := by
  simp [checkCondition_complementCond]

theorem checkCondition_above (f : Flags) :
    checkCondition f .above = true ↔ f.c = false ∧ f.z = false := by
  rw [show Cond.above = complementCond .carryOrEqual from rfl, checkCondition_complementCond_iff,
    checkCondition_carryOrEqual]
  simp

theorem checkCondition_signedGreater (f : Flags) :
    checkCondition f .signedGreater = true ↔ f.v ≠ f.n ∧ f.z = false := by
  rw [show Cond.signedGreater = complementCond .signedLessOrEq from rfl, checkCondition_complementCond_iff,
    checkCondition_signedLessOrEq]
  simp

theorem checkCondition_signedGreaterOrEq (f : Flags) :
    checkCondition f .signedGreaterOrEq = true ↔ f.v ≠ f.n ∨ f.z = true := by
  rw [show Cond.signedGreaterOrEq = complementCond .signedLess from rfl, checkCondition_complementCond_iff,
    checkCondition_signedLess, not_and_or]
  simp

/-! ### The truth table -/

/-- R200: no condition reads the flag p. -/
theorem checkCondition_setP (f : Flags) (p : Bool) (c : Cond) :
    checkCondition { f with p := p } c = checkCondition f c := by
  cases c <;> rfl

/-- The highest of the five flag bits is p, and only p. -/
theorem flagsOfBits_ofBool_append :
    ∀ (p : Bool) (f : BitVec 4), flagsOfBits (BitVec.ofBool p ++ f) = { flagsOfBits (0#1 ++ f) with p := p } := by
  decide

/-- R201's truth table: one row per value `c + 2v + 4n + 8z`, the columns for cc 0 to 15 from the left. -/
def conditionTable : List (BitVec 16) :=
  [0b0000011010011111#16, 0b0100111010001101#16, 0b0001000011110111#16, 0b0101100011100101#16,
    0b0000000101111111#16, 0b0100100101101101#16, 0b0001011100010111#16, 0b0101111100000101#16,
    0b0010101010101011#16, 0b0110101010101001#16, 0b0011101010100011#16, 0b0111101010100001#16,
    0b0010101100101011#16, 0b0110101100101001#16, 0b0011101100100011#16, 0b0111101100100001#16]

theorem checkCondition_table_of_p_clear : ∀ f cc : BitVec 4, checkCondition (flagsOfBits (0#1 ++ f)) (condOfBits cc) =
    (conditionTable.getD f.toNat 0#16).getLsbD (15 - cc.toNat) := by
  decide

theorem checkCondition_table (p : Bool) (f cc : BitVec 4) :
    checkCondition (flagsOfBits (BitVec.ofBool p ++ f)) (condOfBits cc) =
      (conditionTable.getD f.toNat 0#16).getLsbD (15 - cc.toNat) := by
  rw [flagsOfBits_ofBool_append, checkCondition_setP, checkCondition_table_of_p_clear]

/-! ### The obligation -/

/-- Settles O40: the formulas are read off code by code, the complement of a code is a named condition, and the
table is checked for p = 0 and holds for both values because no condition reads p. -/
theorem conditionCodes : Obligations.ConditionCodes := by
  refine ⟨fun c v n z p => ?_, fun f cc => ?_, by decide, checkCondition_table⟩
  · exact ⟨rfl, Iff.rfl, Iff.rfl, Iff.rfl, checkCondition_carryOrEqual _, checkCondition_signedLess _,
      checkCondition_signedLessOrEq _, Iff.rfl, iff_of_eq (Bool.not_eq_true' n), checkCondition_signedGreater _,
      checkCondition_signedGreaterOrEq _, checkCondition_above _, iff_of_eq (Bool.not_eq_true' v),
      iff_of_eq (Bool.not_eq_true' z), iff_of_eq (Bool.not_eq_true' c), rfl⟩
  · rw [condOfBits_fifteen_sub, checkCondition_complementCond]

end Sys2Proof.Machine
end

section
/-! The fields of the 32 coprocessor opcodes (48_coprocessor.md R256, R257). -/

namespace Sys2Proof.Machine

/-- R256: the opcode is made of bits 7:5, the bit of the extended form, the bit of the non-waiting form and the
coprocessor. -/
theorem field_opcode_eq_append (w : Word) :
    field w 0 8 = field w 5 3 ++ BitVec.ofBool (bit w 4) ++ BitVec.ofBool (bit w 3) ++ field w 0 3 := by
  refine BitVec.eq_of_getLsbD_eq fun k hk => ?_
  simp only [field, bit, BitVec.getLsbD_append, BitVec.getLsbD_extractLsb', BitVec.getLsbD_ofBool]
  interval_cases k <;> simp

theorem coprocessorNumber_cases : ∀ cp : BitVec 3,
    cp = 0#3 ∨ cp = 1#3 ∨ cp = 2#3 ∨ cp = 3#3 ∨ cp = 4#3 ∨ cp = 5#3 ∨ cp = 6#3 ∨ cp = 7#3 := by
  decide

/-- The rows of the decoder for the opcodes 20 to 3F, the four families CPI, NCPI, CPIEF and NCPIEF in turn: each is
an instruction of the form that the bits `extended` and `nonWaiting` of its opcode say, for the coprocessor `cp`. -/
theorem decode_of_coprocessorOpcode {w : Word} {extended nonWaiting : Bool} {cp : BitVec 3}
    (h : field w 0 8 = 1#3 ++ BitVec.ofBool extended ++ BitVec.ofBool nonWaiting ++ cp) :
    ∃ i, decode w = .ok i ∧
      (if nonWaiting = true then nonWaitingForm i else waitingForm i) =
        some (cp, if extended = true then .extended (field w 8 6) (field w 14 18)
          else .base (field w 8 4) (field w 12 20)) := by
  unfold decode
  rw [h]
  match extended, nonWaiting with
  | false, false | false, true | true, false | true, true =>
    rcases coprocessorNumber_cases cp with rfl | rfl | rfl | rfl | rfl | rfl | rfl | rfl <;>
      exact ⟨_, rfl, rfl⟩

/-- Settles O4: with bits 7:5 fixed, the bits 4, 3 and 2:0 of the word are what tells the 32 opcodes apart. -/
theorem coprocessorOpcodeStructure : Obligations.CoprocessorOpcodeStructure := by
  intro w hw
  have hopcode : field w 0 8 = 1#3 ++ BitVec.ofBool (bit w 4) ++ BitVec.ofBool (bit w 3) ++ field w 0 3 := by
    rw [← hw, ← field_opcode_eq_append]
  exact decode_of_coprocessorOpcode hopcode

end Sys2Proof.Machine
end

section
/-! Decoding and encoding are inverse, and which words decode (30_encoding.md R103 to R111). -/

namespace Sys2Proof

/-! ### The instruction of an instruction's own word -/

/-- The opcode byte of every instruction's word is the one of the opcode table. -/
theorem field_encode_opcode (i : Instr) : field (encode i) 0 8 = opcodeOf i := by
  cases i <;>
    simp only [encode, opcodeOf, field_or, field_put_same, field_put_other, field_putBit_other, Nat.reduceAdd,
      Nat.reduceLeDiff, true_or, BitVec.or_zero]

theorem ifZero_eq_ok {w : Word} {zero : Bool} {i j : Instr} (hz : zero = true) (h : i = j) :
    ifZero w zero i = .ok j := by
  rw [ifZero, if_pos hz, h]

/-- Settles O1: the opcode of the word selects the instruction's own row of the decoder, whose must-be-zero fields no
operand touches and whose operand fields read back what was put there. -/
theorem decodeOfEncode : Obligations.DecodeOfEncode := by
  intro i
  unfold decode
  rw [field_encode_opcode]
  cases i with
  | pause | mov | st | ld | ldi | lra | add | sub | fsl | fsr | jmpr | portIn | portOut | ldflags | stflags | xvp
  | xchg | ext | halt | stop =>
    refine ifZero_eq_ok ?_ ?_ <;>
      simp [encode, field_put_same, field_put_other, field_putBit_other, bit_putBit_same, bit_put_other,
        bit_putBit_other]
  | _ =>
    refine congrArg Except.ok ?_
    simp [encode, field_put_same, field_put_other, field_putBit_other, bit_putBit_same, bit_put_other,
      bit_putBit_other]

/-! ### The low bits of a word, put together field by field -/

/-- The bits of a word below bit `k`, and 0 above. -/
def lowPart (w : Word) (k : Nat) : Word := put 0 (field w 0 k)

theorem getLsbD_lowPart (w : Word) (k j : Nat) : (lowPart w k).getLsbD j = (decide (j < k) && w.getLsbD j) := by
  by_cases hj : j < 32
  · simp [lowPart, put, field, hj]
  · simp [BitVec.getLsbD_of_ge _ j (Nat.le_of_not_lt hj)]

/-- All 32 bits are the word. -/
@[simp] theorem lowPart_all (w : Word) : lowPart w 32 = w := by
  refine BitVec.eq_of_getLsbD_eq fun j hj => ?_
  rw [getLsbD_lowPart, decide_eq_true hj, Bool.true_and]

/-- The next field up, put in its place. -/
@[simp] theorem lowPart_or_put (w : Word) (k n : Nat) : lowPart w k ||| put k (field w k n) = lowPart w (k + n) := by
  refine BitVec.eq_of_getLsbD_eq fun j hj => ?_
  simp only [BitVec.getLsbD_or, getLsbD_lowPart, put, field, BitVec.getLsbD_shiftLeft, BitVec.getLsbD_setWidth,
    BitVec.getLsbD_extractLsb']
  by_cases hk : j < k
  · simp [hk, Nat.lt_add_right n hk]
  · by_cases hn : j < k + n
    · simp [hk, hn, hj, show j - k < n by omega, show j - k < 32 by omega, show k + (j - k) = j by omega]
    · simp [hk, hn, show ¬ j - k < n by omega]

/-- The next bit up, put in its place. -/
@[simp] theorem lowPart_or_putBit (w : Word) (k : Nat) : lowPart w k ||| putBit k (bit w k) = lowPart w (k + 1) := by
  have hbit : BitVec.ofBool (bit w k) = field w k 1 := by
    refine BitVec.eq_of_getLsbD_eq fun j hj => ?_
    obtain rfl : j = 0 := by omega
    simp [bit, field]
  rw [putBit, hbit, lowPart_or_put]

/-- A field of zeros adds nothing. -/
theorem lowPart_of_field_zero {w : Word} {k n : Nat} (h : field w k n = 0#n) : lowPart w k = lowPart w (k + n) := by
  rw [← lowPart_or_put, h]
  simp [put]

/-- The opcode byte in its place is the low byte of the word. -/
theorem put_opcode {w : Word} {op : Nat} (h : (field w 0 8).toNat = op) : put 0 (BitVec.ofNat 8 op) = lowPart w 8 := by
  rw [lowPart, ← h, BitVec.ofNat_toNat, BitVec.setWidth_eq]

/-! ### Must-be-zero bits, as fields and as a mask -/

/-- A field is 0 exactly when the word has no bit in common with the field's mask. -/
theorem field_eq_zero_iff_and_mask (w : Word) (lo n : Nat) (h : lo + n ≤ 32) :
    field w lo n = 0#n ↔ w &&& put lo (BitVec.allOnes n) = 0#32 := by
  constructor
  · intro hf
    refine BitVec.eq_of_getLsbD_eq fun j hj => ?_
    simp only [BitVec.getLsbD_and, put, BitVec.getLsbD_shiftLeft, BitVec.getLsbD_setWidth, BitVec.getLsbD_allOnes,
      BitVec.getLsbD_zero]
    by_cases hin : lo ≤ j ∧ j < lo + n
    · have hbit := congrArg (fun v => v.getLsbD (j - lo)) hf
      simp only [field, BitVec.getLsbD_extractLsb', BitVec.getLsbD_zero, show j - lo < n by omega,
        show lo + (j - lo) = j by omega, decide_true, Bool.true_and] at hbit
      simp [hbit]
    · by_cases hlo : j < lo
      · simp [hlo]
      · simp [show ¬ j - lo < n by omega]
  · intro hm
    refine BitVec.eq_of_getLsbD_eq fun j hj => ?_
    have hbit := congrArg (fun v => v.getLsbD (lo + j)) hm
    simpa [put, field, hj, show lo + j < 32 by omega, show j < 32 by omega] using hbit

theorem and_or_eq_zero_iff (w x y : Word) : w &&& (x ||| y) = 0#32 ↔ w &&& x = 0#32 ∧ w &&& y = 0#32 := by
  rw [BitVec.and_or_distrib_left, BitVec.or_eq_zero_iff]

/-! ### What decoding can do -/

/-- A row of the decoder for the must-be-zero mask `z`: a word with a 1 under the mask is malformed, and a word with
none gives an instruction whose word it is. -/
def DecodesRow (w z : Word) (answer : Except DecodeError Instr) : Prop :=
  (w &&& z ≠ 0#32 ∧ answer = .error (.reservedBitSet (field w 0 8))) ∨
    (w &&& z = 0#32 ∧ ∃ i, answer = .ok i ∧ encode i = w)

/-- A row without must-be-zero bits. -/
theorem DecodesRow.of_ok {w : Word} {i : Instr} (h : encode i = w) : DecodesRow w 0#32 (.ok i) :=
  .inr ⟨BitVec.and_zero, i, rfl, h⟩

theorem DecodesRow.of_ifZero {w z : Word} {zero : Bool} {i : Instr} (hz : zero = true ↔ w &&& z = 0#32)
    (h : zero = true → encode i = w) : DecodesRow w z (ifZero w zero i) := by
  cases zero with
  | true => exact .inr ⟨hz.1 rfl, i, rfl, h rfl⟩
  | false => exact .inl ⟨fun hw => Bool.false_ne_true (hz.2 hw), rfl⟩

/-- A row with one field of must-be-zero bits. -/
theorem DecodesRow.of_field {w z : Word} {i : Instr} (lo n : Nat) (hz : z = put lo (BitVec.allOnes n))
    (hn : lo + n ≤ 32) (h : lowPart w lo = lowPart w (lo + n) → encode i = w) :
    DecodesRow w z (ifZero w (field w lo n == 0#n) i) := by
  refine .of_ifZero ?_ fun hf => h (lowPart_of_field_zero (beq_iff_eq.1 hf))
  rw [beq_iff_eq, field_eq_zero_iff_and_mask w lo n hn, hz]

/-- A row with two fields of must-be-zero bits. -/
theorem DecodesRow.of_fields {w z : Word} {i : Instr} (lo n lo' n' : Nat)
    (hz : z = put lo (BitVec.allOnes n) ||| put lo' (BitVec.allOnes n')) (hn : lo + n ≤ 32) (hn' : lo' + n' ≤ 32)
    (h : lowPart w lo = lowPart w (lo + n) → lowPart w lo' = lowPart w (lo' + n') → encode i = w) :
    DecodesRow w z (ifZero w (field w lo n == 0#n && field w lo' n' == 0#n') i) := by
  refine .of_ifZero ?_ fun hf => ?_
  · rw [Bool.and_eq_true, beq_iff_eq, beq_iff_eq, field_eq_zero_iff_and_mask w lo n hn,
      field_eq_zero_iff_and_mask w lo' n' hn', hz, and_or_eq_zero_iff]
  · obtain ⟨hlo, hlo'⟩ := Bool.and_eq_true_iff.1 hf
    exact h (lowPart_of_field_zero (beq_iff_eq.1 hlo)) (lowPart_of_field_zero (beq_iff_eq.1 hlo'))

end Sys2Proof

namespace Sys2Proof.Machine

/-- The opcodes without a row of must-be-zero bits are the 197 of R106. -/
theorem reservedBits_eq_none_iff : ∀ op : BitVec 8, reservedBits op = none ↔ UndefinedOpcode op := by
  unfold UndefinedOpcode
  decide

theorem decode_of_reservedBits_none {w : Word} (h : reservedBits (field w 0 8) = none) :
    decode w = .error (.unknownOpcode (field w 0 8)) :=
  decode_of_undefinedOpcode ((reservedBits_eq_none_iff _).1 h)

/-- A word whose opcode has must-be-zero bits is decoded by a row for those bits: the rows differ in their mask, in
the fields it is made of and in the instruction. -/
theorem decodesRow_decode {w z : Word} (h : reservedBits (field w 0 8) = some z) : DecodesRow w z (decode w) := by
  unfold decode
  split
  case h_60 =>
    have hdefined := mt (reservedBits_eq_none_iff (field w 0 8)).2 (by simp [h])
    have hlt := (field w 0 8).isLt
    simp only [UndefinedOpcode, ← BitVec.toNat_inj, BitVec.toNat_ofNat] at hdefined
    exfalso
    grind
  all_goals
    rename_i hop
    have hlow := put_opcode hop
    simp [reservedBits, hop] at h
    subst h
  case h_2 => exact .of_field 14 18 rfl (by decide) fun hz => by simp [encode, hlow, hz]
  case h_3 =>
    exact .of_fields 18 2 30 2 rfl (by decide) (by decide) fun hz hz' => by
      simp [encode, hlow, hz, hz', condToBits_condOfBits, directionToBit_directionOfBit]
  case h_4 | h_5 =>
    exact .of_field 20 10 rfl (by decide) fun hz => by
      simp [encode, hlow, hz, widthToBits_widthOfBits, modeToBits_modeOfBits]
  case h_6 | h_7 => exact .of_field 14 2 rfl (by decide) fun hz => by simp [encode, hlow, hz]
  case h_9 | h_10 => exact .of_field 30 2 rfl (by decide) fun hz => by simp [encode, hlow, hz]
  case h_14 | h_15 => exact .of_field 25 1 rfl (by decide) fun hz => by simp [encode, hlow, hz]
  case h_17 => exact .of_field 22 10 rfl (by decide) fun hz => by simp [encode, hlow, hz, condToBits_condOfBits]
  case h_18 | h_19 => exact .of_field 21 6 rfl (by decide) fun hz => by simp [encode, hlow, hz]
  case h_20 | h_21 => exact .of_field 13 19 rfl (by decide) fun hz => by simp [encode, hlow, hz]
  case h_22 | h_57 | h_58 => exact .of_field 8 24 rfl (by decide) fun hz => by simp [encode, hlow, hz]
  case h_23 =>
    exact .of_fields 18 2 25 7 rfl (by decide) (by decide) fun hz hz' => by
      simp [encode, hlow, hz, hz', condToBits_condOfBits]
  case h_24 =>
    exact .of_field 19 8 rfl (by decide) fun hz => by simp [encode, hlow, hz, extKindToBit_extKindOfBit]
  all_goals exact .of_ok (by simp [encode, hlow, condToBits_condOfBits])


/-! ### The obligations -/

/-- Settles O2: a row of the decoder that gives an instruction gives one whose word it is. -/
theorem encodeOfDecode : Obligations.EncodeOfDecode := by
  intro w i h
  cases hz : reservedBits (field w 0 8) with
  | none => rw [decode_of_reservedBits_none hz] at h; cases h
  | some z =>
    rcases decodesRow_decode hz with ⟨-, he⟩ | ⟨-, j, hj, hw⟩
    · rw [he] at h; cases h
    · obtain rfl : j = i := by simpa [hj] using h
      exact hw

/-- Settles O3, by the row of must-be-zero bits that the word's opcode has, or has not. -/
theorem decodesExactlyTheTable : Obligations.DecodesExactlyTheTable := by
  refine ⟨fun w => ?_, reservedBits_eq_none_iff⟩
  cases hz : reservedBits (field w 0 8) with
  | none => simp [decode_of_reservedBits_none hz]
  | some z =>
    rcases decodesRow_decode hz with ⟨hne, he⟩ | ⟨heq, i, hi, -⟩
    · simp [he, hne]
    · simp [hi, heq]

/-- Settles O5: nine words, decoded. -/
theorem exampleWordsDecode : Obligations.ExampleWordsDecode := by
  refine ⟨?_, ?_, ?_, ?_, ?_, ?_, ?_, ?_, ?_⟩ <;> decide

end Sys2Proof.Machine
end

section
/-! What every step keeps: the invariant, the platform, the record of calls; and that every step from a state with the
invariant answers a next state (60_exceptions.md R320). -/

namespace Sys2Proof.Machine

/-! ### The parts of a step keep the invariant -/

theorem State.Inv.nextInput {s : State} (h : s.Inv) : s.nextInput.Inv :=
  ⟨h.pcAligned, h.enabledPresent, h.bufferFits, h.memCanonical⟩

theorem State.Inv.of_isOrdinary {i : Instr} {s t : State} (h : s.Inv) (ho : IsOrdinary i s t) : t.Inv where
  pcAligned := ho.pc h.pcAligned
  enabledPresent := by rw [ho.plat]; exact ho.present h.enabledPresent
  bufferFits := by rw [ho.plat, ho.irqBuffer]; exact h.bufferFits
  memCanonical := ho.wf h.memCanonical

/-- A trap enables no coprocessor and buffers no IRQ: it keeps both, or it is a reset and clears both. -/
theorem State.Inv.of_isTrap {s t : State} (h : s.Inv) (ht : IsTrap s t) : t.Inv where
  pcAligned := ht.pc
  enabledPresent := by
    rcases ht.data with ⟨-, hd⟩ | hr
    · rw [hd.cpe, ht.keeps.plat]; exact h.enabledPresent
    · rw [hr.cpe]; exact BitVec.zero_and
  bufferFits := by
    rcases ht.data with ⟨-, hd⟩ | hr
    · rw [hd.irqBuffer, ht.keeps.plat]; exact h.bufferFits
    · rw [hr.irqBuffer]; exact Nat.zero_le _
  memCanonical := by rw [ht.keeps.mem]; exact h.memCanonical

theorem State.Inv.acceptEvent {s : State} (h : s.Inv) (e : Event) : (s.acceptEvent e).Inv := by
  rcases s.acceptEvent_cases e with heq | ht | ⟨v, hroom, heq⟩
  · rw [heq]; exact h
  · exact h.of_isTrap ht
  · rw [heq]
    exact ⟨h.pcAligned, h.enabledPresent, by simpa using hroom, h.memCanonical⟩

/-- Taking the oldest pending IRQ off the buffer. -/
theorem State.Inv.dropIrq {s : State} {v : IrqNum} {rest : List IrqNum} (h : s.Inv) (hq : s.irqBuffer = v :: rest) :
    ({ s with irqBuffer := rest } : State).Inv := by
  have hfits : (v :: rest).length ≤ s.plat.irqCapacity := hq ▸ h.bufferFits
  exact ⟨h.pcAligned, h.enabledPresent, Nat.le_of_succ_le hfits, h.memCanonical⟩

/-! ### What an instruction, a Tick and a step answer -/

/-- An instruction, or the exception that stands in its place, answers a next state: an ordinary effect, and then a
trap or nothing. -/
theorem exec_answers (i : Instr) (s : State) :
    ∃ u t, exec i s = .next t ∧ IsOrdinary i s u ∧ (t = u ∨ IsTrap u t) := exec_runs i s

theorem State.Inv.of_exec {i : Instr} {s t : State} (h : s.Inv) (he : exec i s = .next t) : t.Inv := by
  obtain ⟨u, t', he', ho, ht⟩ := exec_answers i s
  obtain rfl : t' = t := by simpa [he'] using he
  rcases ht with rfl | ht
  · exact h.of_isOrdinary ho
  · exact (h.of_isOrdinary ho).of_isTrap ht

/-- From an aligned pc, the fetched instruction answers a next state with the invariant. -/
theorem State.Inv.runInstruction {s : State} (h : s.Inv) : ∃ t, s.runInstruction = .next t ∧ t.Inv := by
  rcases s.runInstruction_cases with ⟨hpc, -⟩ | heq | heq | ⟨i, -, heq⟩
  · exact absurd h.pcAligned (by simp [hpc])
  · exact ⟨_, heq, h.of_isTrap (s.isTrap_raise _)⟩
  · exact ⟨_, heq, h.of_isTrap (s.isTrap_raise _)⟩
  · obtain ⟨-, t, he, -⟩ := exec_answers i s
    exact ⟨t, heq.trans he, h.of_exec he⟩

theorem State.Inv.tick {s : State} (h : s.Inv) : ∃ t, s.tick = .next t ∧ t.Inv := by
  rcases s.tick_cases with ⟨-, heq⟩ | ⟨v, rest, -, -, hq, heq⟩ | ⟨-, -, heq⟩
  · exact ⟨s, heq, h⟩
  · exact ⟨_, heq, (h.dropIrq hq).of_isTrap (State.isTrap_deliverEvent _ _ _)⟩
  · rw [heq]; exact h.runInstruction

/-- A step from a state with the invariant answers a next state with the invariant. -/
theorem State.Inv.step {s : State} (h : s.Inv) : ∃ t, step s = .next t ∧ t.Inv := by
  rcases step_cases s with ⟨-, heq⟩ | ⟨rest, -, heq⟩ | ⟨e, rest, -, heq⟩
  · rw [heq]; exact h.nextInput.tick
  · exact ⟨_, heq, h.nextInput.of_isTrap (State.isTrap_enterReset _)⟩
  · exact ⟨_, heq, h.nextInput.acceptEvent e⟩

/-! ### What no step changes -/

/-- The parameters are the same and calls were only added to the record. -/
def ExtendsLog (s t : State) : Prop := t.plat = s.plat ∧ ∃ calls, t.log = calls ++ s.log

theorem ExtendsLog.refl (s : State) : ExtendsLog s s := ⟨rfl, [], rfl⟩

theorem ExtendsLog.of_isTrap {s t : State} (h : IsTrap s t) : ExtendsLog s t := ⟨h.keeps.plat, [], h.keeps.log⟩

theorem ExtendsLog.trans {s t u : State} (h : ExtendsLog s t) (h' : ExtendsLog t u) : ExtendsLog s u := by
  obtain ⟨hp, calls, hl⟩ := h
  obtain ⟨hp', calls', hl'⟩ := h'
  exact ⟨hp'.trans hp, calls' ++ calls, by rw [hl', hl, List.append_assoc]⟩

theorem ExtendsLog.of_exec {i : Instr} {s t : State} (he : exec i s = .next t) : ExtendsLog s t := by
  obtain ⟨u, t', he', ho, ht⟩ := exec_answers i s
  obtain rfl : t' = t := by simpa [he'] using he
  have hu : ExtendsLog s u := ⟨ho.plat, ho.log⟩
  rcases ht with rfl | ht
  · exact hu
  · exact hu.trans (.of_isTrap ht)

theorem ExtendsLog.of_runInstruction {s t : State} (h : s.runInstruction = .next t) : ExtendsLog s t := by
  rcases s.runInstruction_cases with ⟨-, heq⟩ | heq | heq | ⟨i, -, heq⟩ <;> rw [heq] at h
  · cases h
  · cases h; exact .of_isTrap (s.isTrap_raise _)
  · cases h; exact .of_isTrap (s.isTrap_raise _)
  · exact .of_exec h

theorem ExtendsLog.of_tick {s t : State} (h : s.tick = .next t) : ExtendsLog s t := by
  rcases s.tick_cases with ⟨-, heq⟩ | ⟨v, rest, -, -, -, heq⟩ | ⟨-, -, heq⟩ <;> rw [heq] at h
  · cases h; exact .refl s
  · cases h
    have hdrop : ExtendsLog s { s with irqBuffer := rest } := ⟨rfl, [], rfl⟩
    exact hdrop.trans (.of_isTrap (State.isTrap_deliverEvent _ _ _))
  · exact .of_runInstruction h

theorem ExtendsLog.acceptEvent (s : State) (e : Event) : ExtendsLog s (s.acceptEvent e) := by
  rcases s.acceptEvent_cases e with heq | ht | ⟨v, -, heq⟩
  · rw [heq]; exact .refl s
  · exact .of_isTrap ht
  · rw [heq]; exact ⟨rfl, [], rfl⟩

/-! ### The obligations -/

/-- Settles O22: an ordinary effect, a trap, an accepted event and the taking of an input each keep the invariant, and a
step is made of these. -/
theorem stepKeepsInv : Obligations.StepKeepsInv := by
  intro s t h he
  obtain ⟨t', he', ht'⟩ := h.step
  obtain rfl : t' = t := by simpa [he'] using he
  exact ht'

/-- Settles O23: the one fault is the unaligned fetch, which the invariant rules out. -/
theorem stepAnswersNext : Obligations.StepAnswersNext := by
  intro s h
  obtain ⟨t, he, -⟩ := h.step
  exact ⟨t, he⟩

/-- Settles O24, by the three inputs of a step. -/
theorem stepKeepsPlatformExtendsLog : Obligations.StepKeepsPlatformExtendsLog := by
  intro s t h
  have hinput : ExtendsLog s s.nextInput := ⟨rfl, [], rfl⟩
  refine hinput.trans ?_
  rcases step_cases s with ⟨-, heq⟩ | ⟨rest, -, heq⟩ | ⟨e, rest, -, heq⟩ <;> rw [heq] at h
  · exact .of_tick h
  · obtain rfl := Host.Outcome.next.inj h
    exact .of_isTrap (State.isTrap_enterReset _)
  · obtain rfl := Host.Outcome.next.inj h
    exact .acceptEvent _ e

/-- Settles O21: the empty buffer and the empty memory, and 0xFF00 is a multiple of 4. -/
theorem resetSatisfiesInv : Obligations.ResetSatisfiesInv :=
  fun _ => ⟨(by decide : aligned 0x0000FF00#32 .word = true), BitVec.zero_and, Nat.zero_le _, rfl⟩

/-- Settles O11. -/
theorem resetStateValues : Obligations.ResetStateValues := by
  intro p
  have hcpp : (p.cpPresent.setWidth 32).toNat = p.cpPresent.toNat := by
    rw [BitVec.toNat_setWidth]
    exact Nat.mod_eq_of_lt (by omega)
  have hintctl : BitVec.ofBool false ++ 0#29 ++ 0#2 = 0#32 := by decide
  exact ⟨rfl, rfl, rfl, hintctl, rfl, rfl, hcpp, rfl⟩

/-- Settles O12: the input Reset is `enterReset` whatever the state is. -/
theorem resetInputResets : Obligations.ResetInputResets := by
  intro s rest h
  have hinput : s.nextInput = { s with inputs := rest } := by rw [State.nextInput, h, List.tail_cons]
  refine ⟨_, step_of_reset h, ?_⟩
  rw [hinput]
  exact State.isReset_enterReset _

end Sys2Proof.Machine
end

section
/-! One step, by what its input and its fetch are (60_exceptions.md R320, R345; 49_halt_stop.md). -/

namespace Sys2Proof.Machine

/-- Settles O6. -/
theorem stepRunsDecodedInstruction : Obligations.StepRunsDecodedInstruction := by
  intro s w i hruns hfetch hd
  rw [step_of_runsNext hruns]
  exact State.runInstruction_of_decode_ok hfetch.nextInput hd

/-- A fetch that the bus does not answer (20_memory.md R76). -/
theorem State.runInstruction_of_busError {s : State} (hpc : aligned s.pc .word = true)
    (hbus : s.busOK s.pc .word .fetch = false) : s.runInstruction = .next (s.raise .busFault) := by
  simp [State.runInstruction, hpc, hbus]

/-- A 1 among the must-be-zero bits of a defined opcode (30_encoding.md R108). -/
theorem raisesOnReservedBits {op : BitVec 8} {z : Word} (h : reservedBits op = some z) : RaisesOnReservedBits op z := by
  intro s w hruns hfetch hop hne
  rw [step_of_runsNext hruns]
  rcases decodesRow_decode (hop ▸ h) with ⟨-, hd⟩ | ⟨hzero, -⟩
  · exact State.runInstruction_of_decode_error hfetch.nextInput hd
  · exact absurd hzero hne

/-- Settles O8: the fetch is checked before the word is decoded. -/
theorem fetchAndReservedBitChecks : Obligations.FetchAndReservedBitChecks := by
  refine ⟨fun s hruns hpc hbus => ?_, fun op z => raisesOnReservedBits⟩
  rw [step_of_runsNext hruns]
  exact State.runInstruction_of_busError (s := s.nextInput) hpc hbus

/-- A stopped CPU takes no event and runs no instruction (49_halt_stop.md R266). -/
theorem State.acceptEvent_of_stopped {s : State} (h : s.status = .stopped) (e : Event) : s.acceptEvent e = s := by
  unfold State.acceptEvent
  rw [if_pos h]

theorem State.tick_of_stopped {s : State} (h : s.status = .stopped) : s.tick = .next s := by
  unfold State.tick
  rw [if_pos h]

/-- Settles O10: of the three inputs only the reset touches a stopped CPU, and a halted one waits. -/
theorem waitingCpuKeepsItsState : Obligations.WaitingCpuKeepsItsState := by
  constructor
  · intro s hstopped hreset
    have hstopped' : s.nextInput.status = .stopped := hstopped
    rcases step_cases s with ⟨-, heq⟩ | ⟨rest, hi, -⟩ | ⟨e, rest, -, heq⟩
    · rw [heq, State.tick_of_stopped hstopped']
    · exact absurd (by rw [hi]; rfl) hreset
    · rw [heq, State.acceptEvent_of_stopped hstopped']
  · intro s hhalted htick hq
    rw [step_of_tick s htick]
    exact State.tick_of_halted (s := s.nextInput) hhalted hq

end Sys2Proof.Machine
end

section
/-! Who may change what: memory, the flags, the system registers, the mask and Status, read off what one instruction
can do (`exec_runs`). -/

namespace Sys2Proof.Machine

/-- Where no reset was counted, an instruction is its ordinary effect, and the exception after it, if any, keeps the
data registers. -/
theorem exec_without_reset {i : Instr} {s t : State} (h : exec i s = .next t) (hr : t.resets = s.resets) :
    ∃ u, IsOrdinary i s u ∧ TrapKeepsData u t := by
  obtain ⟨u, t', he, ho, ht⟩ := exec_answers i s
  obtain rfl : t' = t := by simpa [he] using h
  refine ⟨u, ho, ?_⟩
  rcases ht with rfl | ht
  · exact .refl _
  · rcases ht.data with ⟨-, hd⟩ | hreset
    · exact hd
    · have hcount : t'.resets = u.resets + 1 := hreset.environment.resets
      rw [ho.resets] at hcount
      omega

/-- Settles O25: the ordinary effect of an instruction other than ST keeps memory, and so does every trap. -/
theorem onlyStoresChangeMemory : Obligations.OnlyStoresChangeMemory := by
  intro i s t h hi
  obtain ⟨u, t', he, ho, ht⟩ := exec_answers i s
  obtain rfl : t' = t := by simpa [he] using h
  rcases ht with rfl | ht
  · exact ho.mem hi
  · exact ht.keeps.mem.trans (ho.mem hi)

/-- Settles O26. -/
theorem onlyFlagWritersChangeFlags : Obligations.OnlyFlagWritersChangeFlags := by
  intro i s t h hr
  obtain ⟨u, ho, hd⟩ := exec_without_reset h hr
  exact ⟨fun hi => hd.flags.trans (ho.flags hi), fun hi => by rw [hd.flags]; exact ho.parity hi⟩

/-- Settles O27. -/
theorem onlyMovWritesSystemRegisters : Obligations.OnlyMovWritesSystemRegisters := by
  intro i s t h hr
  obtain ⟨u, ho, hd⟩ := exec_without_reset h hr
  refine ⟨fun hi => ?_, fun hi => hd.cpe.trans (ho.map4 hi), fun hi hi' => hd.io.trans (ho.map2 hi hi')⟩
  obtain ⟨hints, hintd, hinttab⟩ := ho.map1 hi
  exact ⟨hd.ints.trans hints, hd.intd.trans hintd, hd.inttab.trans hinttab⟩

/-- Settles O28: a trap never raises m, so the ordinary effect did, and only one may. -/
theorem onlyMovRaisesMask : Obligations.OnlyMovRaisesMask := by
  intro i s t h hmask
  obtain ⟨u, t', he, ho, ht⟩ := exec_answers i s
  obtain rfl : t' = t := by simpa [he] using h
  have hle : t'.mask.toNat ≤ u.mask.toNat := by
    rcases ht with rfl | ht
    · exact Nat.le_refl _
    · exact ht.mask
  rcases ho.mask with heq | hmov
  · rw [heq] at hle; omega
  · exact hmov

/-- HALT and STOP: Status and the pc. -/
theorem Completes.of_status (s : State) (st : Status) :
    Completes [] { s with status := st } { s.advance with status := st } :=
  .of_advance { s with status := st }

/-- Settles O60: a trap leaves Status 0, and of the ordinary effects only those of HALT and STOP do not keep it. -/
theorem haltAndStopResult : Obligations.HaltAndStopResult := by
  refine ⟨fun s => ⟨⟨_, rfl, rfl, .of_status s .halted⟩, ⟨_, rfl, rfl, .of_status s .stopped⟩⟩, ?_⟩
  intro i s t h hs hne
  obtain ⟨u, t', he, ho, ht⟩ := exec_answers i s
  obtain rfl : t' = t := by simpa [he] using h
  rcases ht with rfl | ht
  · rcases ho.status with heq | ⟨rfl, -⟩ | ⟨rfl, -⟩
    · exact absurd (heq.trans hs) hne
    · exact .inl rfl
    · exact .inr rfl
  · exact absurd ht.status hne

end Sys2Proof.Machine
end

section
/-! Frames: that only some registers, the flags and the pc differ, for one register write after another. -/

namespace Sys2Proof.Machine

theorem OnlyRegisters.refl (s : State) : OnlyRegisters [] s s :=
  ⟨fun _ _ => rfl, fun _ => rfl, ⟨rfl, rfl, rfl, rfl, rfl, rfl, rfl, rfl, rfl, rfl, rfl, rfl⟩,
    ⟨rfl, rfl, rfl, rfl, rfl, rfl, rfl⟩⟩

theorem OnlyRegisters.mono {ds es : List RegNum} {s t : State} (h : OnlyRegisters ds s t) (hsub : ds ⊆ es) :
    OnlyRegisters es s t :=
  ⟨fun r hr => h.regs r fun hd => hr (hsub hd), h.memory, h.system, h.environment⟩

theorem OnlyRegisters.trans {ds es : List RegNum} {s t u : State} (h : OnlyRegisters ds s t)
    (h' : OnlyRegisters es t u) : OnlyRegisters (ds ++ es) s u where
  regs r hr := by
    rw [List.mem_append, not_or] at hr
    exact (h'.regs r hr.2).trans (h.regs r hr.1)
  memory a := (h'.memory a).trans (h.memory a)
  system :=
    { status := h'.system.status.trans h.system.status
      mask := h'.system.mask.trans h.system.mask
      abort := h'.system.abort.trans h.system.abort
      intret1 := h'.system.intret1.trans h.system.intret1
      intret2 := h'.system.intret2.trans h.system.intret2
      intret3 := h'.system.intret3.trans h.system.intret3
      ints := h'.system.ints.trans h.system.ints
      intd := h'.system.intd.trans h.system.intd
      inttab := h'.system.inttab.trans h.system.inttab
      io := h'.system.io.trans h.system.io
      cpe := h'.system.cpe.trans h.system.cpe
      irqBuffer := h'.system.irqBuffer.trans h.system.irqBuffer }
  environment :=
    { plat := h'.environment.plat.trans h.environment.plat
      inputs := h'.environment.inputs.trans h.environment.inputs
      portAnswers := h'.environment.portAnswers.trans h.environment.portAnswers
      cpAnswers := h'.environment.cpAnswers.trans h.environment.cpAnswers
      cpErrors := h'.environment.cpErrors.trans h.environment.cpErrors
      log := h'.environment.log.trans h.environment.log
      resets := h'.environment.resets.trans h.environment.resets }

/-- The flags and the pc are not among what `OnlyRegisters` fixes. -/
theorem OnlyRegisters.of_flags_pc (s : State) (f : Flags) (a : Word) :
    OnlyRegisters [] s { s with flags := f, pc := a } :=
  ⟨fun _ _ => rfl, fun _ => rfl, ⟨rfl, rfl, rfl, rfl, rfl, rfl, rfl, rfl, rfl, rfl, rfl, rfl⟩,
    ⟨rfl, rfl, rfl, rfl, rfl, rfl, rfl⟩⟩

theorem OnlyRegisters.of_writeReg (s : State) (d : RegNum) (v : Word) : OnlyRegisters [d] s (s.writeReg d v) where
  regs r hr := State.readReg_writeReg_other s v (by simpa using hr)
  memory a := by simp
  system := ⟨by simp, by simp, by simp, by simp, by simp, by simp, by simp, by simp, by simp, by simp, by simp, by simp⟩
  environment := ⟨by simp, by simp, by simp, by simp, by simp, by simp, by simp⟩

/-- A change of registers, and then the pc of the next instruction. -/
theorem Completes.of_onlyRegisters {ds : List RegNum} {s t : State} (h : OnlyRegisters ds s t) (hpc : t.pc = s.pc)
    (hflags : t.flags = s.flags) : Completes ds s t.advance where
  pc := by rw [State.advance, State.nextPc, hpc]
  flags := hflags
  rest := (h.trans (.of_flags_pc t t.flags t.nextPc)).mono (by simp)

theorem Completes.of_writeReg_writeReg (s : State) (d e : RegNum) (v u : Word) :
    Completes [d, e] s ((s.writeReg d v).writeReg e u).advance :=
  .of_onlyRegisters ((OnlyRegisters.of_writeReg s d v).trans (.of_writeReg _ e u)) (by simp) (by simp)

end Sys2Proof.Machine
end

section
/-! Taking an exception, an abort, an event and an IRQ: the handler that is entered, or what a blocked one and a bad
table entry do (60_exceptions.md R311 to R334). -/

namespace Sys2Proof.Machine

/-! ### Blocking and table entries -/

theorem State.blocks_eq_false_iff (s : State) (p : Nat) : s.blocks p = false ↔ p ≤ s.mask.toNat := by
  simp [State.blocks]

theorem State.not_blocks_one {s : State} (h : s.mask ≠ 0#2) : s.blocks 1 = false := by
  rw [State.blocks_eq_false_iff, Nat.one_le_iff_ne_zero]
  exact fun h0 => h (BitVec.eq_of_toNat_eq h0)

/-- A bad entry is one that the table read answers with an exception. -/
theorem State.tableEntry_of_bad {s : State} {n : BitVec 6} (h : s.EntryBad n.toNat) : ∃ e, s.tableEntry n = .error e := by
  obtain ⟨-, hfault, hinvalid⟩ := s.tableEntry_spec n
  rcases h with h | h
  · exact ⟨_, hfault.2 h⟩
  · exact ⟨_, hinvalid.2 h⟩

/-! ### Entry -/

/-- The state that entry sets before it reads the table: the return address, the mask and Status (R332). -/
def State.entered (s : State) (p : Nat) (ret : Word) : State :=
  { s.saveReturn p ret with mask := BitVec.ofNat 2 (p - 1), status := .executing }

/-- Entry changes nothing that a table entry depends on. -/
theorem State.tableEntry_entered (s : State) (p : Nat) (ret : Word) (n : BitVec 6) :
    (s.entered p ret).tableEntry n = s.tableEntry n := by
  obtain ⟨hk, hd, -⟩ := s.saveReturn_keeps p ret
  exact State.tableEntry_congr hd.inttab hk.plat hk.mem n

theorem State.entryHolds_entered (s : State) (p : Nat) (ret : Word) (n : Nat) (h : Word) :
    (s.entered p ret).EntryHolds n h ↔ s.EntryHolds n h := by
  obtain ⟨hk, hd, -⟩ := s.saveReturn_keeps p ret
  obtain ⟨hholds, -⟩ := State.entry_congr (s := s) (t := s.entered p ret) hd.inttab hk.plat hk.mem n
  exact hholds h

theorem State.entryBad_entered (s : State) (p : Nat) (ret : Word) (n : Nat) :
    (s.entered p ret).EntryBad n ↔ s.EntryBad n := by
  obtain ⟨hk, hd, -⟩ := s.saveReturn_keeps p ret
  obtain ⟨-, -, -, hbad⟩ := State.entry_congr (s := s) (t := s.entered p ret) hd.inttab hk.plat hk.mem n
  exact hbad

theorem State.abort_entered (s : State) (p : Nat) (ret : Word) : (s.entered p ret).abort = s.abort := by
  obtain ⟨-, -, -, -, ha⟩ := s.saveReturn_keeps p ret
  exact ha

/-- A reset of the state that entry has set is a reset of the state before. -/
theorem IsReset.of_entered {s t : State} {p : Nat} {ret : Word} (h : IsReset (s.entered p ret) t) : IsReset s t := by
  obtain ⟨hk, -, hr, -⟩ := s.saveReturn_keeps p ret
  exact h.of_eq hk.mem hk.plat hk.inputs hk.portAnswers hk.cpAnswers hk.cpErrors hk.log hr

theorem State.deliver_of_entryHolds {s : State} {n : BitVec 6} {p : Nat} {ret h : Word}
    {bad : SyncExc → State → State} (hb : s.blocks p = false) (he : s.EntryHolds n.toNat h) :
    s.deliver n p ret bad = { s.entered p ret with pc := h } := by
  obtain ⟨hok, -⟩ := s.tableEntry_spec n
  have hread : (s.entered p ret).tableEntry n = .ok h := by rw [State.tableEntry_entered]; exact (hok h).2 he
  unfold State.deliver
  rw [hb]
  simp only [State.entered] at hread ⊢
  simp [hread]

theorem State.deliver_of_tableEntry_error {s : State} {n : BitVec 6} {p : Nat} {ret : Word} {e : SyncExc}
    {bad : SyncExc → State → State} (hb : s.blocks p = false) (he : s.tableEntry n = .error e) :
    s.deliver n p ret bad = bad e (s.entered p ret) := by
  have hread : (s.entered p ret).tableEntry n = .error e := by rw [State.tableEntry_entered, he]
  unfold State.deliver
  rw [hb]
  simp only [State.entered] at hread ⊢
  simp [hread]

/-! ### Synchronous exceptions -/

theorem State.raise_eq (s : State) (e : SyncExc) : s.raise e = s.deliverException e s.syncReturn := by
  rw [State.raise, State.excReturnAddress_eq]

/-- A synchronous exception that is not blocked, with a valid entry (R332). -/
theorem State.deliverException_of_entryHolds {s : State} {e : SyncExc} {h : Word} (ret : Word) (hm : s.mask ≠ 0#2)
    (he : s.EntryHolds (excNumber e).toNat h) : InExceptionHandler h ret s (s.deliverException e ret) := by
  rw [State.deliverException, State.deliver_of_entryHolds (State.not_blocks_one hm) he]
  exact ⟨rfl, rfl, rfl, rfl, rfl, .of_flags_pc _ _ _⟩

/-- A synchronous exception that is not blocked, with a bad entry: the exception it raises is blocked (R334). -/
theorem State.deliverException_of_entryBad {s : State} {e : SyncExc} (ret : Word) (hm : s.mask ≠ 0#2)
    (he : s.EntryBad (excNumber e).toNat) : s.deliverException e ret = (s.entered 1 ret).blockedException := by
  obtain ⟨e', he'⟩ := State.tableEntry_of_bad he
  rw [State.deliverException, State.deliver_of_tableEntry_error (State.not_blocks_one hm) he']

/-! ### The abort and the reset of a blocked exception -/

/-- The state that the abort sets before it reads entry 0 (R333). -/
def State.aborting (s : State) : State := { s with abort := true, mask := 0#2, status := .executing }

theorem State.tableEntry_aborting (s : State) (n : BitVec 6) : s.aborting.tableEntry n = s.tableEntry n :=
  State.tableEntry_congr rfl rfl rfl n

theorem State.enterAbort_of_tableEntry_ok {s : State} {h : Word} (he : s.tableEntry 0 = .ok h) :
    s.enterAbort = { s.aborting with pc := h } := by
  have hread : s.aborting.tableEntry 0 = .ok h := by rw [State.tableEntry_aborting, he]
  unfold State.enterAbort
  simp only [State.aborting] at hread ⊢
  simp only [hread]

theorem State.enterAbort_of_tableEntry_error {s : State} {e : SyncExc} (he : s.tableEntry 0 = .error e) :
    s.enterAbort = s.aborting.enterReset := by
  have hread : s.aborting.tableEntry 0 = .error e := by rw [State.tableEntry_aborting, he]
  unfold State.enterAbort
  simp only [State.aborting] at hread ⊢
  simp only [hread]

/-- The abort through a valid entry 0 (R333). -/
theorem State.enterAbort_of_entryHolds {s : State} {h : Word} (he : s.EntryHolds 0 h) :
    InAbortHandler h s s.enterAbort := by
  obtain ⟨hok, -⟩ := s.tableEntry_spec 0
  rw [State.enterAbort_of_tableEntry_ok ((hok h).2 he)]
  exact ⟨rfl, rfl, rfl, rfl, rfl, .of_flags_pc _ _ _⟩

/-- The abort through a bad entry 0 is a reset (R311, R333). -/
theorem State.enterAbort_of_entryBad {s : State} (he : s.EntryBad 0) : IsReset s s.enterAbort := by
  obtain ⟨e, he'⟩ := State.tableEntry_of_bad (n := 0) he
  rw [State.enterAbort_of_tableEntry_error he']
  exact s.aborting.isReset_enterReset.of_eq rfl rfl rfl rfl rfl rfl rfl rfl

/-- What a blocked synchronous exception does, by a and by entry 0 (R311). -/
theorem State.blockedException_spec (s : State) :
    (s.abort = true → IsReset s s.blockedException) ∧
    (∀ h, s.abort = false → s.EntryHolds 0 h → InAbortHandler h s s.blockedException) ∧
    (s.abort = false → s.EntryBad 0 → IsReset s s.blockedException) := by
  refine ⟨fun ha => ?_, fun h ha he => ?_, fun ha he => ?_⟩ <;> rw [State.blockedException, ha]
  · exact s.isReset_enterReset
  · exact State.enterAbort_of_entryHolds he
  · exact State.enterAbort_of_entryBad he

/-- Settles O13. -/
theorem exceptionEntry : Obligations.ExceptionEntry := by
  intro e h s hm he
  rw [State.raise_eq]
  exact State.deliverException_of_entryHolds s.syncReturn hm he

/-- Settles O14. -/
theorem blockedExceptionAbortsOrResets : Obligations.BlockedExceptionAbortsOrResets := by
  intro e s hm
  rw [State.raise_eq, State.deliverException_blocked s e _ hm]
  exact s.blockedException_spec

/-- Settles O15: the second exception is blocked in the state that entry has set, which differs from the first one's in
`intret1`, the mask and Status. -/
theorem badEntryOfException : Obligations.BadEntryOfException := by
  intro e s hm he
  rw [State.raise_eq, State.deliverException_of_entryBad s.syncReturn hm he]
  obtain ⟨hreset, habort, hbad⟩ := (s.entered 1 s.syncReturn).blockedException_spec
  simp only [State.abort_entered, State.entryHolds_entered, State.entryBad_entered] at hreset habort hbad
  refine ⟨fun ha => (hreset ha).of_entered, fun h ha h0 => ?_, fun ha h0 => (hbad ha h0).of_entered⟩
  obtain ⟨hpc, ha', hmask, hstatus, hflags, hrest⟩ := habort h ha h0
  exact ⟨hpc, ha', hmask, hstatus, hflags, hrest⟩

/-- Settles O58: UND of either opcode is the raising of EX[2], whose entry number is 2. -/
theorem undefinedInstructionEntry : Obligations.UndefinedInstructionEntry := by
  intro payload h s hm he
  have hentry := exceptionEntry .invalidInstruction h s hm he
  exact ⟨⟨_, exec_und00 payload s, hentry⟩, ⟨_, exec_undFF payload s, hentry⟩⟩

/-! ### Priority-2 events -/

/-- A priority-2 event with a valid entry, delivered with the return address `s.pc` (R332, P = 2). -/
theorem State.deliverEvent_of_priority_two {s : State} {e : Event} {h : Word} (hp : eventPriority e = 2)
    (hm : 2 ≤ s.mask.toNat) (he : s.EntryHolds (eventNumber e).toNat h) :
    InEventHandler h s.pc s (s.deliverEvent e s.pc) := by
  rw [State.deliverEvent, hp, State.deliver_of_entryHolds ((s.blocks_eq_false_iff 2).2 hm) he]
  exact ⟨rfl, rfl, rfl, rfl, rfl, .of_flags_pc _ _ _⟩

theorem State.offerEvent_of_open {s : State} {e : Event} (h : eventPriority e ≤ s.mask.toNat) :
    s.offerEvent e = s.deliverEvent e s.pc := by
  rcases s.offerEvent_cases e with ⟨hlt, -⟩ | ⟨-, heq⟩
  · omega
  · exact heq

theorem State.offerEvent_of_blocked {s : State} {e : Event} (h : s.mask.toNat < eventPriority e) :
    s.offerEvent e = s := by
  rcases s.offerEvent_cases e with ⟨-, heq⟩ | ⟨hle, -⟩
  · exact heq
  · omega

/-- A CPU that is not stopped is offered a priority-2 event that arrives (R320). -/
theorem State.acceptEvent_of_priority_two {s : State} {e : Event} (hs : s.status ≠ .stopped)
    (hp : eventPriority e = 2) : s.acceptEvent e = s.offerEvent e := by
  unfold State.acceptEvent
  rw [if_neg hs]
  cases e with
  | nmi | unitError cp => rfl
  | irq v => exact absurd hp (by decide : (3 : Nat) ≠ 2)

/-- The state whose first input is taken, where that input is known. -/
theorem State.nextInput_of_cons {s : State} {i : Input} {rest : List Input} (h : s.inputs = i :: rest) :
    s.nextInput = { s with inputs := rest } := by
  rw [State.nextInput, h, List.tail_cons]

/-- Settles O16. -/
theorem eventEntry : Obligations.EventEntry := by
  intro e h rest s hp hi hs hm he
  refine ⟨_, step_of_event hi, ?_⟩
  rw [State.nextInput_of_cons hi, State.acceptEvent_of_priority_two (s := { s with inputs := rest }) hs hp,
    State.offerEvent_of_open (s := { s with inputs := rest }) (by rw [hp]; exact hm)]
  exact State.deliverEvent_of_priority_two (s := { s with inputs := rest }) hp hm he

/-- A priority-2 event that arrives with m below 2 is discarded, stopped or not (R312). -/
theorem step_of_blocked_event {e : Event} {rest : List Input} {s : State} (hp : eventPriority e = 2)
    (hi : s.inputs = .event e :: rest) (hm : s.mask.toNat < 2) : step s = .next { s with inputs := rest } := by
  rw [step_of_event hi, State.nextInput_of_cons hi]
  by_cases hs : s.status = .stopped
  · rw [State.acceptEvent_of_stopped (s := { s with inputs := rest }) hs]
  · rw [State.acceptEvent_of_priority_two (s := { s with inputs := rest }) hs hp,
      State.offerEvent_of_blocked (s := { s with inputs := rest }) (by rw [hp]; exact hm)]

/-! ### IRQs -/

/-- The table entry of an IRQ (R300). -/
theorem eventNumber_irq_toNat (v : IrqNum) : (eventNumber (.irq v)).toNat = 32 + v.val := by
  have hv := v.isLt
  rw [eventNumber, BitVec.toNat_add, BitVec.toNat_ofNat]
  show (32 + v.val % 64) % 64 = 32 + v.val
  omega

/-- An IRQ with a valid entry, delivered with the return address `s.pc` (R332, P = 3). -/
theorem State.deliverEvent_irq {s : State} {v : IrqNum} {h : Word} (hm : s.mask = 3#2)
    (he : s.EntryHolds (32 + v.val) h) : InIrqHandler h s.pc s (s.deliverEvent (.irq v) s.pc) := by
  rw [← eventNumber_irq_toNat] at he
  rw [State.deliverEvent, State.deliver_of_entryHolds (p := eventPriority (.irq v)) (s.blocks_three.2 hm) he]
  exact ⟨rfl, rfl, rfl, rfl, rfl, .of_flags_pc _ _ _⟩

theorem State.acceptEvent_irq {s : State} (hs : s.status ≠ .stopped) (v : IrqNum) :
    s.acceptEvent (.irq v) = s.offerIrq v := by
  unfold State.acceptEvent
  rw [if_neg hs]

theorem State.offerIrq_of_open {s : State} (hm : s.mask = 3#2) (hq : s.irqBuffer = []) (v : IrqNum) :
    s.offerIrq v = s.deliverEvent (.irq v) s.pc := by
  simp [State.offerIrq, s.blocks_three.2 hm, hq]

/-- An IRQ that priority 3 or an older IRQ holds back goes to the buffer, where there is room (R313). -/
theorem State.offerIrq_of_waiting {s : State} (hw : s.mask ≠ 3#2 ∨ s.irqBuffer ≠ []) (v : IrqNum) :
    s.offerIrq v =
      if s.irqBuffer.length < s.plat.irqCapacity then { s with irqBuffer := s.irqBuffer ++ [v] } else s := by
  have hnot : ¬ ((!s.blocks 3 && s.irqBuffer.isEmpty) = true) := by
    rw [Bool.and_eq_true, Bool.not_eq_true', State.blocks_three, List.isEmpty_iff]
    exact not_and_or.2 hw
  rw [State.offerIrq, if_neg hnot]

/-- Settles O18: the IRQ is delivered, or waits where the buffer has room, or is dropped. -/
theorem irqArrival : Obligations.IrqArrival := by
  intro v rest s hi hs
  have hstep : step s = .next (State.offerIrq { s with inputs := rest } v) := by
    rw [step_of_event hi, State.nextInput_of_cons hi, State.acceptEvent_irq (s := { s with inputs := rest }) hs]
  refine ⟨fun h hm hq he => ⟨_, hstep, ?_⟩, fun hw hroom => ?_, fun hw hfull => ?_⟩
  · rw [State.offerIrq_of_open (s := { s with inputs := rest }) hm hq]
    exact State.deliverEvent_irq (s := { s with inputs := rest }) hm he
  · rw [hstep, State.offerIrq_of_waiting (s := { s with inputs := rest }) hw, if_pos hroom]
  · rw [hstep, State.offerIrq_of_waiting (s := { s with inputs := rest }) hw, if_neg (Nat.not_lt.2 hfull)]

/-- Settles O19: with m = 3 and an IRQ buffered, a Tick of a CPU that is not stopped is the delivery of the oldest. -/
theorem bufferedIrqDelivered : Obligations.BufferedIrqDelivered := by
  intro v younger h s htick hs hm hq he
  have hblocks : s.nextInput.blocks 3 = false := s.blocks_three.2 hm
  have hs' : s.nextInput.status ≠ .stopped := hs
  have hq' : s.nextInput.irqBuffer = v :: younger := hq
  refine ⟨State.deliverEvent { s.nextInput with irqBuffer := younger } (.irq v) s.pc, ?_, ?_⟩
  · rw [step_of_tick s htick]
    unfold State.tick
    rw [if_neg hs', hblocks, hq']
    rfl
  · exact State.deliverEvent_irq (s := { s.nextInput with irqBuffer := younger }) hm he

/-! ### A bad entry met while delivering an event -/

/-- EX[1] or EX[4] met while an event is delivered: m is at least 1 there, so it is not blocked (R334). -/
theorem State.deliverEvent_of_tableEntry_error {s : State} {e : Event} {bad : SyncExc} {h : Word}
    (hm : eventPriority e ≤ s.mask.toNat) (he : s.tableEntry (eventNumber e) = .error bad)
    (hbad : s.EntryHolds (excNumber bad).toNat h) :
    InExceptionHandler h s.pc (s.saveReturn (eventPriority e) s.pc) (s.deliverEvent e s.pc) := by
  have hmask : (s.entered (eventPriority e) s.pc).mask ≠ 0#2 := by
    cases e with
    | nmi | unitError cp => exact (by decide : 1#2 ≠ 0#2)
    | irq v => exact (by decide : 2#2 ≠ 0#2)
  rw [State.deliverEvent, State.deliver_of_tableEntry_error ((s.blocks_eq_false_iff _).2 hm) he]
  obtain ⟨hpc, hret, hmask', hstatus, hflags, hrest⟩ := State.deliverException_of_entryHolds s.pc hmask
    ((s.entryHolds_entered _ _ _ _).2 hbad)
  exact ⟨hpc, hret, hmask', hstatus, hflags, hrest⟩

/-- Settles O20. -/
theorem badEntryOfEvent : Obligations.BadEntryOfEvent := by
  intro e h s hm
  obtain ⟨-, hfault, hinvalid⟩ := s.tableEntry_spec (eventNumber e)
  exact ⟨fun hr he => State.deliverEvent_of_tableEntry_error hm (hfault.2 hr) he,
    fun hr he => State.deliverEvent_of_tableEntry_error hm (hinvalid.2 hr) he⟩

end Sys2Proof.Machine
end

section
/-! The 32 coprocessor instructions: the exception of a disabled coprocessor, the calls to an enabled one, and what the
error it reports does (48_coprocessor.md R250 to R258). -/

namespace Sys2Proof.Machine

/-! ### The two shared operations stand behind the 32 opcodes -/

theorem exec_of_waitingForm {i : Instr} {cp : BitVec 3} {fn : CpFunction} (h : waitingForm i = some (cp, fn))
    (s : State) : exec i s = .next (s.invokeWaiting cp fn) := by
  cases i with
  | cpi0 | cpi1 | cpi2 | cpi3 | cpi4 | cpi5 | cpi6 | cpi7 | cpi0ef | cpi1ef | cpi2ef | cpi3ef | cpi4ef | cpi5ef
  | cpi6ef | cpi7ef => cases h; rfl
  | _ => cases h

theorem exec_of_nonWaitingForm {i : Instr} {cp : BitVec 3} {fn : CpFunction} (h : nonWaitingForm i = some (cp, fn))
    (s : State) : exec i s = .next (s.invoke cp fn) := by
  cases i with
  | ncpi0 | ncpi1 | ncpi2 | ncpi3 | ncpi4 | ncpi5 | ncpi6 | ncpi7 | ncpi0ef | ncpi1ef | ncpi2ef | ncpi3ef | ncpi4ef
  | ncpi5ef | ncpi6ef | ncpi7ef => cases h; rfl
  | _ => cases h

/-! ### A disabled coprocessor -/

theorem State.invoke_of_disabled {s : State} {cp : BitVec 3} (h : s.cpEnabled cp = false) (fn : CpFunction) :
    s.invoke cp fn = s.raise s.plat.cpiDisabledExc := by
  rcases s.invoke_cases cp fn with ⟨-, heq⟩ | ⟨he, -⟩
  · exact heq
  · simp [h] at he

theorem State.invokeWaiting_of_disabled {s : State} {cp : BitVec 3} (h : s.cpEnabled cp = false) (fn : CpFunction) :
    s.invokeWaiting cp fn = s.raise s.plat.cpiDisabledExc := by
  rcases s.invokeWaiting_cases cp fn with ⟨-, heq⟩ | ⟨he, -⟩
  · exact heq
  · simp [h] at he

/-- Settles O55. -/
theorem disabledCoprocessorRaises : Obligations.DisabledCoprocessorRaises := by
  refine ⟨fun i cp fn s hform hdisabled => ?_, fun e s => (s.isTrap_raise e).keeps.log, rfl⟩
  rcases hform with hform | hform
  · rw [exec_of_waitingForm hform, State.invokeWaiting_of_disabled hdisabled]
  · rw [exec_of_nonWaitingForm hform, State.invoke_of_disabled hdisabled]

/-! ### An enabled coprocessor -/

theorem State.invoke_of_enabled {s : State} {cp : BitVec 3} (h : s.cpEnabled cp = true) (fn : CpFunction) :
    s.invoke cp fn = (s.cpExecute cp fn).advance := by
  rw [State.invoke, if_pos h]

/-- Settles O56. -/
theorem invokeResult : Obligations.InvokeResult := by
  intro i cp fn s hform henabled
  refine ⟨_, exec_of_nonWaitingForm hform s, ?_⟩
  rw [State.invoke_of_enabled henabled]
  exact ⟨rfl, .of_advance { s with log := .cpExecute cp fn :: s.log }⟩

/-- The state after the three calls of a waiting instruction, before the reported error is looked at (R252). -/
def State.waited (s : State) (cp : BitVec 3) (fn : CpFunction) : State :=
  (((s.cpExecute cp fn).cpWait cp).cpPull cp).advance

/-- The error that the third call reports. -/
def State.waitError (s : State) (cp : BitVec 3) (fn : CpFunction) : Bool :=
  ((s.cpExecute cp fn).cpWait cp).cpError cp

theorem State.invokeWaiting_of_no_error {s : State} {cp : BitVec 3} {fn : CpFunction} (h : s.cpEnabled cp = true)
    (he : s.waitError cp fn = false) : s.invokeWaiting cp fn = s.waited cp fn := by
  unfold State.waitError at he
  simp [State.invokeWaiting, State.waited, h, he]

theorem State.invokeWaiting_of_error {s : State} {cp : BitVec 3} {fn : CpFunction} (h : s.cpEnabled cp = true)
    (he : s.waitError cp fn = true) : s.invokeWaiting cp fn = (s.waited cp fn).offerEvent (.unitError cp) := by
  unfold State.waitError at he
  simp [State.invokeWaiting, State.waited, h, he]

/-- Nothing but the record, the answers to come and the pc differs after the three calls. -/
theorem State.waited_completes (s : State) (cp : BitVec 3) (fn : CpFunction) :
    Completes [] { s with log := (s.waited cp fn).log, cpErrors := (s.waited cp fn).cpErrors } (s.waited cp fn) :=
  .of_advance { s with log := (s.waited cp fn).log, cpErrors := (s.waited cp fn).cpErrors }

theorem State.waited_log (s : State) (cp : BitVec 3) (fn : CpFunction) :
    (s.waited cp fn).log = .cpPull cp (s.waitError cp fn) :: .cpWait cp :: .cpExecute cp fn :: s.log := rfl

/-- With no error, or one that priority 2 blocks, the instruction is its three calls (R258). -/
theorem State.invokeWaiting_of_quiet {s : State} {cp : BitVec 3} {fn : CpFunction} (h : s.cpEnabled cp = true)
    (hq : s.waitError cp fn = false ∨ s.mask.toNat < 2) : s.invokeWaiting cp fn = s.waited cp fn := by
  cases he : s.waitError cp fn with
  | false => exact State.invokeWaiting_of_no_error h he
  | true =>
    have hm : s.mask.toNat < 2 := by simpa [he] using hq
    rw [State.invokeWaiting_of_error h he]
    exact State.offerEvent_of_blocked (s := s.waited cp fn) (e := .unitError cp) hm

/-- The table entry of a unit error (60_exceptions.md R300). -/
theorem eventNumber_unitError_toNat (cp : BitVec 3) : (eventNumber (.unitError cp)).toNat = 8 + cp.toNat := by
  have hcp := cp.isLt
  rw [eventNumber, BitVec.toNat_add, BitVec.toNat_setWidth]
  show (8 + cp.toNat % 64) % 64 = 8 + cp.toNat
  omega

/-- An error that priority 2 lets through is delivered with the next instruction's address (R258). -/
theorem State.invokeWaiting_of_delivered {s : State} {cp : BitVec 3} {fn : CpFunction} {h : Word}
    (henabled : s.cpEnabled cp = true) (he : s.waitError cp fn = true) (hm : 2 ≤ s.mask.toNat)
    (hentry : s.EntryHolds (8 + cp.toNat) h) :
    InEventHandler h (s.pc + 4#32) { s with log := (s.waited cp fn).log, cpErrors := (s.waited cp fn).cpErrors }
      (s.invokeWaiting cp fn) := by
  have hentry' : (s.waited cp fn).EntryHolds (eventNumber (.unitError cp)).toNat h := by
    rw [eventNumber_unitError_toNat]; exact hentry
  rw [State.invokeWaiting_of_error henabled he,
    State.offerEvent_of_open (s := s.waited cp fn) (e := .unitError cp) hm]
  obtain ⟨hpc, hret, hmask, hstatus, hflags, hrest⟩ :=
    State.deliverEvent_of_priority_two (s := s.waited cp fn) (e := .unitError cp) rfl hm hentry'
  exact ⟨hpc, hret, hmask, hstatus, hflags, (OnlyRegisters.of_flags_pc _ s.flags (s.pc + 4#32)).trans hrest⟩

/-- What the reported error does touches neither the record nor the answers to come. -/
theorem State.invokeWaiting_record {s : State} {cp : BitVec 3} (h : s.cpEnabled cp = true) (fn : CpFunction) :
    (s.invokeWaiting cp fn).log = (s.waited cp fn).log ∧
      (s.invokeWaiting cp fn).cpErrors = (s.waited cp fn).cpErrors := by
  cases he : s.waitError cp fn with
  | false => rw [State.invokeWaiting_of_no_error h he]; exact ⟨rfl, rfl⟩
  | true =>
    rw [State.invokeWaiting_of_error h he]
    rcases (s.waited cp fn).offerEvent_cases (.unitError cp) with ⟨-, heq⟩ | ⟨-, heq⟩ <;> rw [heq]
    · exact ⟨rfl, rfl⟩
    · have htrap := (s.waited cp fn).isTrap_deliverEvent (.unitError cp) (s.waited cp fn).pc
      exact ⟨htrap.keeps.log, htrap.keeps.cpErrors⟩

/-- Settles O57, by the error that is reported and the mask. -/
theorem invokeAndWaitResult : Obligations.InvokeAndWaitResult := by
  intro i cp fn s hform henabled
  obtain ⟨hlog, herrors⟩ := State.invokeWaiting_record henabled fn
  refine ⟨_, s.waitError cp fn, exec_of_waitingForm hform s, rfl, hlog.trans (s.waited_log cp fn), herrors,
    fun hquiet => ?_, fun h he hm hentry => ?_⟩
  · rw [State.invokeWaiting_of_quiet henabled hquiet]
    exact s.waited_completes cp fn
  · rw [hlog, herrors]
    exact State.invokeWaiting_of_delivered henabled he hm hentry

/-- Settles O17: an event that arrives is dropped, and so is the error of a waiting instruction. -/
theorem blockedEventDiscarded : Obligations.BlockedEventDiscarded := by
  refine ⟨fun e rest s hp hi hm => step_of_blocked_event hp hi hm, fun i cp fn s hform henabled hm => ?_⟩
  refine ⟨_, exec_of_waitingForm hform s, ?_⟩
  rw [State.invokeWaiting_of_quiet henabled (.inr hm)]
  exact s.waited_completes cp fn

end Sys2Proof.Machine
end

section
/-! Loads and stores: the bytes, the checks, the base register's update (20_memory.md R71 to R76, 42_load_store.md R150
to R155). -/

namespace Sys2Proof.Machine

/-! ### The bits and bytes a load reads -/

/-- Bit `r` of byte 0 of a string of bytes, the lowest byte last. -/
theorem getLsbD_append_byte_zero {n : Nat} (hi : BitVec n) (lo : Byte) {r : Nat} (hr : r < 8) :
    (hi ++ lo).getLsbD (8 * 0 + r) = lo.getLsbD r := by
  rw [BitVec.getLsbD_append, Nat.mul_zero, Nat.zero_add, if_pos hr]

theorem getLsbD_append_byte_succ {n : Nat} (hi : BitVec n) (lo : Byte) (q r : Nat) :
    (hi ++ lo).getLsbD (8 * (q + 1) + r) = hi.getLsbD (8 * q + r) := by
  rw [BitVec.getLsbD_append, if_neg (by omega), show 8 * (q + 1) + r - 8 = 8 * q + r by omega]

/-- Byte `q` of a loaded value, bit by bit (R71, R74). -/
theorem getLsbD_memRead_byte (mem : Memory) (addr : Word) (w : Width) {q r : Nat} (hq : q < widthBytes w) (hr : r < 8) :
    (memRead mem addr w).getLsbD (8 * q + r) = (mem.read (addr + BitVec.ofNat 32 q).toNat).getLsbD r := by
  have h0 : addr + BitVec.ofNat 32 0 = addr := BitVec.add_zero addr
  cases w with
  | byte =>
    obtain rfl : q = 0 := by simpa [widthBytes] using hq
    rw [h0, memRead, BitVec.getLsbD_setWidth, decide_eq_true (by omega), Bool.true_and, Nat.mul_zero, Nat.zero_add]
  | half =>
    rw [memRead, BitVec.getLsbD_setWidth, decide_eq_true (by simp only [widthBytes] at hq; omega), Bool.true_and]
    match q, hq with
    | 0, _ => rw [h0, getLsbD_append_byte_zero _ _ hr]
    | 1, _ => rw [getLsbD_append_byte_succ, Nat.mul_zero, Nat.zero_add]
  | word =>
    rw [memRead, wordOfBytes]
    match q, hq with
    | 0, _ => rw [h0, getLsbD_append_byte_zero _ _ hr]
    | 1, _ => rw [getLsbD_append_byte_succ, getLsbD_append_byte_zero _ _ hr]
    | 2, _ => rw [getLsbD_append_byte_succ, getLsbD_append_byte_succ, getLsbD_append_byte_zero _ _ hr]
    | 3, _ =>
      rw [getLsbD_append_byte_succ, getLsbD_append_byte_succ, getLsbD_append_byte_succ, Nat.mul_zero, Nat.zero_add]

/-- A loaded value has no bits above its width (R74). -/
theorem getLsbD_memRead_above (mem : Memory) (addr : Word) (w : Width) {i : Nat} (hi : 8 * widthBytes w ≤ i) :
    (memRead mem addr w).getLsbD i = false := by
  cases w with
  | byte => rw [memRead, BitVec.getLsbD_setWidth, BitVec.getLsbD_of_ge _ i (show 8 ≤ i from hi), Bool.and_false]
  | half => rw [memRead, BitVec.getLsbD_setWidth, BitVec.getLsbD_of_ge _ i (show 8 + 8 ≤ i from hi), Bool.and_false]
  | word => exact BitVec.getLsbD_of_ge _ i hi

/-- Byte `k` of a loaded value. -/
theorem field_memRead (mem : Memory) (addr : Word) (w : Width) (k : Nat) :
    field (memRead mem addr w) (8 * k) 8 =
      if k < widthBytes w then mem.read (addr + BitVec.ofNat 32 k).toNat else 0#8 := by
  refine BitVec.eq_of_getLsbD_eq fun r hr => ?_
  rw [field, BitVec.getLsbD_extractLsb', decide_eq_true hr, Bool.true_and]
  split
  · rename_i hk
    exact getLsbD_memRead_byte mem addr w hk hr
  · rename_i hk
    rw [getLsbD_memRead_above mem addr w (by omega), BitVec.getLsbD_zero]

/-- Settles O29: bit `8q + r` of the load is bit `r` of the byte `q` above it, which is byte `k + q` of the stored
value. -/
theorem loadInsideStore : Obligations.LoadInsideStore := by
  intro mem a v w w' k hk
  refine Nat.eq_of_testBit_eq fun i => ?_
  rw [BitVec.testBit_toNat, Nat.testBit_mod_two_pow, Nat.testBit_div_two_pow, BitVec.testBit_toNat]
  by_cases hi : i < 8 * widthBytes w'
  · have hq : i / 8 < widthBytes w' := by omega
    have hr : i % 8 < 8 := Nat.mod_lt i (by omega)
    have hbyte := read_memWrite_byte mem a w v (k + i / 8) (by omega)
    rw [BitVec.ofNat_add, ← BitVec.add_assoc] at hbyte
    rw [decide_eq_true hi, Bool.true_and, ← Nat.div_add_mod i 8, getLsbD_memRead_byte _ _ w' hq hr, hbyte, field,
      BitVec.getLsbD_extractLsb', decide_eq_true hr, Bool.true_and]
    congr 1
    omega
  · rw [decide_eq_false hi, Bool.false_and, getLsbD_memRead_above _ _ w' (by omega)]

/-! ### The checks that ST and LD share -/

theorem memFormLegal_eq_false_iff (b : RegNum) (wd : WidthField) (m : UpdateMode) :
    memFormLegal b wd m = false ↔ m = .illegal ∨ b = 0#5 ∨ wd = .eight := by
  have htrue : memFormLegal b wd m = true ↔ m ≠ .illegal ∧ b ≠ 0#5 ∧ wd ≠ .eight := by simp [memFormLegal, and_assoc]
  rw [← Bool.not_eq_true, htrue, not_and_or, not_and_or, not_not, not_not, not_not]

/-- An illegal update mode, base register or width raises EX[2], whatever the access is (R150, R151). -/
theorem State.withAccess_of_illegal {s : State} {b : RegNum} {wd : WidthField} {m : UpdateMode}
    (h : memFormLegal b wd m = false) (kind : AccessKind) (access : Width → Word → State) :
    s.withAccess b wd m kind access = s.raise .invalidInstruction := by
  rcases (memFormLegal_eq_false_iff b wd m).1 h with rfl | rfl | rfl <;> simp [State.withAccess, legalWidth]

theorem State.withAccess_of_busFault {s : State} {b : RegNum} {wd : WidthField} {m : UpdateMode} {w : Width}
    {kind : AccessKind} (hm : m ≠ .illegal) (hb : b ≠ 0#5) (hw : legalWidth wd = some w)
    (h : aligned (accessAddress (s.readReg b) w m) w = false ∨
      s.busOK (accessAddress (s.readReg b) w m) w kind = false) (access : Width → Word → State) :
    s.withAccess b wd m kind access = s.raise .busFault := by
  rcases h with h | h <;> simp [State.withAccess, hm, hb, hw, h]

theorem State.withAccess_of_answered {s : State} {b : RegNum} {wd : WidthField} {m : UpdateMode} {w : Width}
    {kind : AccessKind} (hm : m ≠ .illegal) (hb : b ≠ 0#5) (hw : legalWidth wd = some w)
    (ha : aligned (accessAddress (s.readReg b) w m) w = true)
    (ho : s.busOK (accessAddress (s.readReg b) w m) w kind = true) (access : Width → Word → State) :
    s.withAccess b wd m kind access = access w (accessAddress (s.readReg b) w m) := by
  simp [State.withAccess, hm, hb, hw, ha, ho]

/-- The check of R73 is divisibility by the width. -/
theorem aligned_iff (a : Word) (w : Width) : aligned a w = true ↔ a.toNat % widthBytes w = 0 := by
  cases w with
  | byte => simp [aligned, widthWord, widthBytes, Nat.mod_one]
  | half =>
    have hmask : (a &&& 1#32).toNat = a.toNat % 2 := by
      rw [BitVec.toNat_and]; exact Nat.and_two_pow_sub_one_eq_mod a.toNat 1
    rw [show widthBytes .half = 2 from rfl, ← hmask]
    exact beq_iff_eq.trans BitVec.toNat_inj.symm
  | word => exact aligned_word_iff a

theorem aligned_eq_false_iff (a : Word) (w : Width) : aligned a w = false ↔ a.toNat % widthBytes w ≠ 0 := by
  rw [← Bool.not_eq_true, aligned_iff]

/-- Settles O32: ST and LD make the same checks. -/
theorem memoryAccessTraps : Obligations.MemoryAccessTraps := by
  intro b r wd m s
  refine ⟨fun h => ?_, fun w hm hb hw => ?_⟩
  · have hillegal := (memFormLegal_eq_false_iff b wd m).2 h
    exact ⟨congrArg Host.Outcome.next (State.withAccess_of_illegal hillegal .write _),
      congrArg Host.Outcome.next (State.withAccess_of_illegal hillegal .read _)⟩
  · rw [← aligned_eq_false_iff]
    exact ⟨fun h => congrArg Host.Outcome.next (State.withAccess_of_busFault hm hb hw h _),
      fun h => congrArg Host.Outcome.next (State.withAccess_of_busFault hm hb hw h _)⟩

/-! ### The base register's update -/

theorem State.updateBase_onlyRegisters (s : State) (b : RegNum) (addr : Word) (w : Width) (m : UpdateMode) :
    OnlyRegisters [b] s (s.updateBase b addr w m) := by
  rcases s.updateBase_cases b addr w m with heq | ⟨v, heq⟩ <;> rw [heq]
  · exact (OnlyRegisters.refl s).mono (List.nil_subset _)
  · exact .of_writeReg s b v

theorem State.updateBase_pc (s : State) (b : RegNum) (addr : Word) (w : Width) (m : UpdateMode) :
    (s.updateBase b addr w m).pc = s.pc := by
  cases m <;> simp [State.updateBase]

theorem State.updateBase_flags (s : State) (b : RegNum) (addr : Word) (w : Width) (m : UpdateMode) :
    (s.updateBase b addr w m).flags = s.flags := by
  cases m <;> simp [State.updateBase]

theorem State.updateBase_mem (s : State) (b : RegNum) (addr : Word) (w : Width) (m : UpdateMode) :
    (s.updateBase b addr w m).mem = s.mem := by
  cases m <;> simp [State.updateBase]

/-- What the base register holds after an access at the address that its old value gives (R154). -/
theorem State.readReg_updateBase_base {s : State} {b : RegNum} {base addr : Word} {w : Width} {m : UpdateMode}
    (hb : b ≠ 0#5) (haddr : accessAddress base w m = addr) :
    (m = .none → (s.updateBase b addr w m).readReg b = s.readReg b) ∧
    (m = .postInc → (s.updateBase b addr w m).readReg b = base + widthWord w) ∧
    (m = .preDec → (s.updateBase b addr w m).readReg b = base - widthWord w) := by
  have hwritten : ∀ v, (s.writeReg b v).readReg b = v := fun v => by rw [State.readReg_writeReg_same, if_neg hb]
  subst haddr
  refine ⟨?_, ?_, ?_⟩ <;> rintro rfl
  · rfl
  · exact hwritten _
  · exact hwritten _

/-- Settles O30: the destination is written first, and the update of the base register second. -/
theorem loadResult : Obligations.LoadResult := by
  intro d b wd m w s hm hb hw ha ho
  have hrun : exec (.ld d b wd m) s = .next (State.advance (State.updateBase
      (s.writeReg d (memRead s.mem (accessAddress (s.readReg b) w m) w)) b (accessAddress (s.readReg b) w m) w m)) :=
    congrArg Host.Outcome.next (State.withAccess_of_answered hm hb hw ha ho _)
  generalize haddr : accessAddress (s.readReg b) w m = addr at *
  have hframe := (s.writeReg d (memRead s.mem addr w)).updateBase_onlyRegisters b addr w m
  have hkept : d ≠ b → HasResult d (memRead s.mem addr w)
      ((s.writeReg d (memRead s.mem addr w)).updateBase b addr w m).advance := fun hdb =>
    (hframe.regs d (by simpa using hdb)).trans (s.readReg_writeReg_same d _)
  obtain ⟨-, hpost, hpre⟩ :=
    State.readReg_updateBase_base (s := s.writeReg d (memRead s.mem addr w)) hb haddr
  refine ⟨_, memRead s.mem addr w, hrun, fun k _ => field_memRead s.mem addr w k, ?_,
    fun hmode => ⟨hpost hmode, hkept⟩, fun hmode => ⟨hpre hmode, hkept⟩, ?_⟩
  · rintro rfl
    exact ⟨s.readReg_writeReg_same d _, fun hdb => s.readReg_writeReg_other _ hdb.symm⟩
  · exact .of_onlyRegisters ((OnlyRegisters.of_writeReg s d _).trans hframe)
      (by rw [State.updateBase_pc, State.writeReg_pc]) (by rw [State.updateBase_flags, State.writeReg_flags])

/-- Settles O31: the value is stored first, and the base register updated second. -/
theorem storeResult : Obligations.StoreResult := by
  intro b r wd m w s hm hb hw ha ho
  have hrun : exec (.st b r wd m) s = .next (State.advance (State.updateBase
      { s with mem := memWrite s.mem (accessAddress (s.readReg b) w m) w (s.readReg r) } b
      (accessAddress (s.readReg b) w m) w m)) :=
    congrArg Host.Outcome.next (State.withAccess_of_answered hm hb hw ha ho _)
  generalize haddr : accessAddress (s.readReg b) w m = addr at *
  have hmem : ((State.updateBase { s with mem := memWrite s.mem addr w (s.readReg r) } b addr w m).advance).mem =
      memWrite s.mem addr w (s.readReg r) :=
    State.updateBase_mem { s with mem := memWrite s.mem addr w (s.readReg r) } b addr w m
  obtain ⟨hnone, hpost, hpre⟩ :=
    State.readReg_updateBase_base (s := { s with mem := memWrite s.mem addr w (s.readReg r) }) hb haddr
  refine ⟨_, hrun, ?_, ?_, hnone, hpost, hpre, ?_⟩
  · intro k hk
    rw [hmem]
    exact read_memWrite_byte s.mem addr w (s.readReg r) k hk
  · intro a hout
    rw [hmem]
    exact read_memWrite_other s.mem addr w (s.readReg r) a hout
  · rw [hmem]
    exact .of_onlyRegisters (State.updateBase_onlyRegisters _ b addr w m) (State.updateBase_pc _ b addr w m)
      (State.updateBase_flags _ b addr w m)

end Sys2Proof.Machine
end

section
/-! ADD, SUB, ADDI, AND, OR, XOR: operands, results and flags as numbers and bits (43_arithmetic_logic.md R170 to R180),
and what the conditions say after a compare (45_branch.md R201). -/

namespace Sys2Proof.Machine

/-! ### Operands -/

theorem State.toNat_aluOperand1 (s : State) (a : RegNum) (n : BitVec 5) (p : Bool) :
    (s.aluOperand1 a n p).toNat = operandNat (s.readReg a) p n := by
  cases p <;> simp [State.aluOperand1, operandNat, BitVec.toNat_shiftLeft, Nat.shiftLeft_eq]

theorem State.toNat_aluOperand2 (s : State) (b : RegNum) (n : BitVec 5) (p : Bool) :
    (s.aluOperand2 b n p).toNat = operandNat (s.readReg b) (!p) n := by
  cases p <;> simp [State.aluOperand2, operandNat, BitVec.toNat_shiftLeft, Nat.shiftLeft_eq]

/-- A sign-extended field as a number modulo 2^32. -/
theorem toNat_signExtend {n : Nat} (v : BitVec n) (h : n ≤ 32) : ((v.signExtend 32).toNat : Int) = v.toInt % 2 ^ 32 := by
  have hint : (v.signExtend 32).toInt = v.toInt := BitVec.toInt_signExtend_of_le h
  rw [← hint, BitVec.toInt_eq_toNat_cond]
  have hlt := (v.signExtend 32).isLt
  split <;> omega

theorem toNat_extendImm (x : Bool) (i : BitVec 16) :
    ((extendImm x i).toNat : Int) = (if x = true then i.toInt else (i.toNat : Int)) % 2 ^ 32 := by
  cases x with
  | true => exact toNat_signExtend i (by decide)
  | false =>
    simp [extendImm]

/-! ### Sums, differences and their flags -/

theorem add_eq_ofNat (a b : Word) : a + b = BitVec.ofNat 32 (a.toNat + b.toNat) := by
  refine BitVec.eq_of_toNat_eq ?_
  rw [BitVec.toNat_add, BitVec.toNat_ofNat]

theorem sub_eq_ofNat (a b : Word) : a - b = BitVec.ofNat 32 (a.toNat + 2 ^ 32 - b.toNat) := by
  refine BitVec.eq_of_toNat_eq ?_
  have hb := b.isLt
  rw [BitVec.toNat_sub, BitVec.toNat_ofNat, show 2 ^ 32 - b.toNat + a.toNat = a.toNat + 2 ^ 32 - b.toNat by omega]

theorem msb_iff (a : Word) : a.msb = true ↔ 2 ^ 31 ≤ a.toNat := by
  simp [BitVec.msb_eq_decide]

theorem beq_zero_iff (a : Word) : (a == 0#32) = true ↔ a.toNat = 0 := by
  rw [beq_iff_eq, ← BitVec.toNat_inj]
  rfl

theorem addFlags_spec (a b : Word) (old : Flags) : FlagsOfSum a.toNat b.toNat old (addFlags a b old) := by
  have ha := a.isLt
  have hb := b.isLt
  refine ⟨decide_eq_true_iff, ?_, ?_, ?_, rfl⟩
  · simp only [addFlags, BitVec.msb_eq_decide, BitVec.toNat_add, signedOverflow, signedValue]
    grind
  · rw [addFlags, msb_iff, BitVec.toNat_add]
  · rw [addFlags, beq_zero_iff, BitVec.toNat_add]

theorem subFlags_spec (a b : Word) (old : Flags) : FlagsOfDifference a.toNat b.toNat old (subFlags a b old) := by
  have ha := a.isLt
  have hb := b.isLt
  have hr : (a - b).toNat = (a.toNat + 2 ^ 32 - b.toNat) % 2 ^ 32 := by rw [sub_eq_ofNat, BitVec.toNat_ofNat]
  refine ⟨decide_eq_true_iff, ?_, ?_, ?_, rfl⟩
  · simp only [subFlags, BitVec.msb_eq_decide, hr, signedOverflow, signedValue]
    grind
  · rw [subFlags, msb_iff, hr]
  · rw [subFlags, beq_zero_iff, hr]
    omega

/-! ### The obligations on ADD, SUB and ADDI -/

/-- Settles O34. -/
theorem addResult : Obligations.AddResult := by
  intro d a b c n p s
  obtain ⟨hres, hpc, hflags, hframe⟩ := s.finishAlu_spec d (s.aluOperand1 a n p + s.aluOperand2 b n p) c
    (addFlags (s.aluOperand1 a n p) (s.aluOperand2 b n p) s.flags)
  have hspec := addFlags_spec (s.aluOperand1 a n p) (s.aluOperand2 b n p) s.flags
  rw [State.toNat_aluOperand1, State.toNat_aluOperand2] at hspec
  refine ⟨_, rfl, ?_, hpc, hframe, fun hc => ?_, fun hc => ?_⟩
  · rw [← State.toNat_aluOperand1, ← State.toNat_aluOperand2, ← add_eq_ofNat]
    exact hres
  · exact hflags.trans (if_pos hc)
  · rw [if_neg (by simp [hc])] at hflags
    rwa [← hflags] at hspec

/-- Settles O35. -/
theorem subResult : Obligations.SubResult := by
  intro d a b c n p s
  obtain ⟨hres, hpc, hflags, hframe⟩ := s.finishAlu_spec d (s.aluOperand1 a n p - s.aluOperand2 b n p) c
    (subFlags (s.aluOperand1 a n p) (s.aluOperand2 b n p) s.flags)
  have hspec := subFlags_spec (s.aluOperand1 a n p) (s.aluOperand2 b n p) s.flags
  rw [State.toNat_aluOperand1, State.toNat_aluOperand2] at hspec
  refine ⟨_, rfl, ?_, hpc, hframe, fun hc => ?_, fun hc => ?_⟩
  · rw [← State.toNat_aluOperand1, ← State.toNat_aluOperand2, ← sub_eq_ofNat]
    exact hres
  · exact hflags.trans (if_pos hc)
  · rw [if_neg (by simp [hc])] at hflags
    rwa [← hflags] at hspec

/-- The immediate of ADDI in the high half (R170). -/
theorem toNat_addiImm_high (sx : Bool) (i : BitVec 16) : (addiImm sx true i).toNat = i.toNat * 2 ^ 16 := by
  have happend : (i ++ 0#16).toNat = i.toNat * 2 ^ 16 := by
    rw [BitVec.toNat_append, Nat.shiftLeft_eq]
    exact Nat.or_zero _
  exact happend

/-- Settles O36. -/
theorem addImmediateResult : Obligations.AddImmediateResult := by
  intro d sx c h i s
  obtain ⟨hres, hpc, hflags, hframe⟩ := s.finishAlu_spec d (s.readReg d + addiImm sx h i) c
    (addFlags (s.readReg d) (addiImm sx h i) s.flags)
  have hspec := addFlags_spec (s.readReg d) (addiImm sx h i) s.flags
  refine ⟨_, (addiImm sx h i).toNat, rfl, (addiImm sx h i).isLt, ?_, ?_, ?_, hpc, hframe, fun hc => ?_, fun hc => ?_⟩
  · rintro rfl
    exact toNat_addiImm_high sx i
  · rintro rfl
    exact toNat_extendImm sx i
  · rw [← add_eq_ofNat]
    exact hres
  · exact hflags.trans (if_pos hc)
  · rw [if_neg (by simp [hc])] at hflags
    rwa [← hflags] at hspec

/-! ### Compare and branch -/

/-- After `a - b`, v and n agree exactly when b is not above a, signed. -/
theorem subFlags_v_eq_n_iff (a b : Word) (old : Flags) :
    (subFlags a b old).v = (subFlags a b old).n ↔ b.toInt ≤ a.toInt := by
  have ha := a.isLt
  have hb := b.isLt
  have hr : (a - b).toNat = (a.toNat + 2 ^ 32 - b.toNat) % 2 ^ 32 := by rw [sub_eq_ofNat, BitVec.toNat_ofNat]
  simp only [subFlags, BitVec.msb_eq_decide, hr, BitVec.toInt_eq_toNat_cond]
  grind

theorem subFlags_z_iff (a b : Word) (old : Flags) : (subFlags a b old).z = true ↔ a = b := by
  rw [(subFlags_spec a b old).z, BitVec.toNat_inj]

/-- Settles O41: the unsigned conditions read c and z, the signed ones whether v and n agree, and z. -/
theorem conditionsAfterCompare : Obligations.ConditionsAfterCompare := by
  intro a b p s
  refine ⟨_, rfl, ?_⟩
  have hflags : (s.finishAlu 0#5 (s.aluOperand1 a 0#5 p - s.aluOperand2 b 0#5 p) false
      (subFlags (s.aluOperand1 a 0#5 p) (s.aluOperand2 b 0#5 p) s.flags)).flags =
      subFlags (s.readReg a) (s.readReg b) s.flags := by
    have h1 : s.aluOperand1 a 0#5 p = s.readReg a := by cases p <;> simp [State.aluOperand1]
    have h2 : s.aluOperand2 b 0#5 p = s.readReg b := by cases p <;> simp [State.aluOperand2]
    rw [h1, h2]
    obtain ⟨-, -, hf, -⟩ := s.finishAlu_spec 0#5 (s.readReg a - s.readReg b) false
      (subFlags (s.readReg a) (s.readReg b) s.flags)
    exact hf
  rw [hflags]
  have hc := (subFlags_spec (s.readReg a) (s.readReg b) s.flags).c
  have hz := subFlags_z_iff (s.readReg a) (s.readReg b) s.flags
  have hvn := subFlags_v_eq_n_iff (s.readReg a) (s.readReg b) s.flags
  have hne : s.readReg a = s.readReg b ↔ (s.readReg a).toInt = (s.readReg b).toInt := BitVec.toInt_inj.symm
  have heq : s.readReg a = s.readReg b ↔ (s.readReg a).toNat = (s.readReg b).toNat := BitVec.toNat_inj.symm
  refine ⟨hz, hc, ?_, ?_, ?_, ?_, ?_, ?_⟩
  · rw [checkCondition_carryOrEqual, hc, hz, heq]
    omega
  · rw [checkCondition_above, ← Bool.not_eq_true, ← Bool.not_eq_true, hc, hz, heq]
    omega
  · rw [checkCondition_signedLess, ← Bool.not_eq_true, hvn, hz, hne]
    omega
  · rw [checkCondition_signedLessOrEq, hvn, hz, hne]
    omega
  · rw [checkCondition_signedGreater, ← Bool.not_eq_true, Ne, hvn, hz, hne]
    omega
  · rw [checkCondition_signedGreaterOrEq, Ne, hvn, hz, hne]
    omega

/-! ### AND, OR, XOR -/

theorem getLsbD_shiftLeft_of_lt (v : Word) (n : Nat) {k : Nat} (hk : k < 32) :
    (v <<< n).getLsbD k = (decide (n ≤ k) && v.getLsbD (k - n)) := by
  rw [BitVec.getLsbD_shiftLeft, decide_eq_true hk, Bool.true_and, ← decide_not, decide_eq_decide.2 Nat.not_lt]

theorem getLsbD_invertIf (inv : Bool) (v : Word) {k : Nat} (hk : k < 32) :
    (invertIf inv v).getLsbD k = (inv != v.getLsbD k) := by
  cases inv with
  | false => exact (Bool.false_bne _).symm
  | true => rw [invertIf, if_pos rfl, BitVec.getLsbD_not, decide_eq_true hk, Bool.true_and, Bool.true_bne]

theorem State.getLsbD_operand1 (s : State) (a : RegNum) (n : BitVec 5) (p inv : Bool) {k : Nat} (hk : k < 32) :
    (invertIf inv (s.aluOperand1 a n p)).getLsbD k = operandBit (s.readReg a) p n inv k := by
  rw [getLsbD_invertIf inv _ hk]
  cases p with
  | false => rfl
  | true => rw [State.aluOperand1, if_pos rfl, getLsbD_shiftLeft_of_lt _ _ hk]; rfl

theorem State.getLsbD_operand2 (s : State) (b : RegNum) (n : BitVec 5) (p inv : Bool) {k : Nat} (hk : k < 32) :
    (invertIf inv (s.aluOperand2 b n p)).getLsbD k = operandBit (s.readReg b) (!p) n inv k := by
  rw [getLsbD_invertIf inv _ hk]
  cases p with
  | true => rfl
  | false => rw [State.aluOperand2, if_neg (by decide), getLsbD_shiftLeft_of_lt _ _ hk]; rfl

theorem logicFlags_spec (r : Word) (old : Flags) : FlagsOfLogic r old (logicFlags r old) := by
  refine ⟨?_, ?_, rfl, rfl, rfl⟩
  · rw [logicFlags, BitVec.msb_eq_getLsbD_last]
  · rw [logicFlags, beq_iff_eq]
    constructor
    · rintro rfl k -
      exact BitVec.getLsbD_zero
    · exact fun h => BitVec.eq_of_getLsbD_eq fun k hk => (h k hk).trans BitVec.getLsbD_zero.symm

/-- What AND, OR and XOR share: the operation on the operands' bits, its flags and its frame. -/
theorem State.logic_spec (s : State) (opW : Word → Word → Word) (op : Bool → Bool → Bool)
    (hop : ∀ x y k, k < 32 → (opW x y).getLsbD k = op (x.getLsbD k) (y.getLsbD k))
    (d a b : RegNum) (c : Bool) (n : BitVec 5) (p : Bool) (inv : BitVec 2) :
    ∃ v : Word, (∀ k, k < 32 → v.getLsbD k = op (operandBit (s.readReg a) p n (inv.getLsbD 0) k)
        (operandBit (s.readReg b) (!p) n (inv.getLsbD 1) k)) ∧
      HasResult d v (s.logic opW d a b c n p inv) ∧ (s.logic opW d a b c n p inv).pc = s.pc + 4#32 ∧
      OnlyRegisters [d] s (s.logic opW d a b c n p inv) ∧
      (c = true → (s.logic opW d a b c n p inv).flags = s.flags) ∧
      (c = false → FlagsOfLogic v s.flags (s.logic opW d a b c n p inv).flags) := by
  let v := opW (invertIf (inv.getLsbD 0) (s.aluOperand1 a n p)) (invertIf (inv.getLsbD 1) (s.aluOperand2 b n p))
  obtain ⟨hres, hpc, hflags, hframe⟩ := s.finishAlu_spec d v c (logicFlags v s.flags)
  refine ⟨v, fun k hk => ?_, hres, hpc, hframe, fun hc => hflags.trans (if_pos hc), fun hc => ?_⟩
  · rw [hop _ _ k hk, s.getLsbD_operand1 a n p _ hk, s.getLsbD_operand2 b n p _ hk]
  · rw [if_neg (by simp [hc])] at hflags
    have hspec := logicFlags_spec v s.flags
    rwa [← hflags] at hspec

/-- Settles O37: the three instructions differ in the operation alone. -/
theorem logicResult : Obligations.LogicResult := by
  intro d a b c n p inv s x y i op h
  rcases h with ⟨rfl, rfl⟩ | ⟨rfl, rfl⟩ | ⟨rfl, rfl⟩
  · obtain ⟨v, hv⟩ := s.logic_spec (fun x y => x &&& y) and (fun _ _ _ _ => BitVec.getLsbD_and) d a b c n p inv
    exact ⟨_, v, rfl, hv⟩
  · obtain ⟨v, hv⟩ := s.logic_spec (fun x y => x ||| y) or (fun _ _ _ _ => BitVec.getLsbD_or) d a b c n p inv
    exact ⟨_, v, rfl, hv⟩
  · obtain ⟨v, hv⟩ := s.logic_spec (fun x y => x ^^^ y) xor (fun _ _ _ _ => BitVec.getLsbD_xor) d a b c n p inv
    exact ⟨_, v, rfl, hv⟩

end Sys2Proof.Machine
end

section
/-! FSL, FSR, EXT, LDI, LRA: the value each writes to its destination (44_funnel_shift.md R190 to R196,
47_flags_xchg_ext.md R234, 42_load_store.md R152, R153). -/

namespace Sys2Proof.Machine

/-! ### Funnel shifts -/

/-- Bit `k` of a left funnel shift: from the value moved up, and below the amount from the top of the remainder. -/
theorem getLsbD_shiftInLeft (val rem : Word) (n : Nat) {k : Nat} (hk : k < 32) :
    (shiftInLeft val rem n).getLsbD k =
      if min n 32 ≤ k then val.getLsbD (k - min n 32) else rem.getLsbD (32 + k - min n 32) := by
  unfold shiftInLeft
  split
  · rename_i h0
    subst h0
    simp
  split
  · rename_i h32
    rw [Nat.min_eq_right h32, if_neg (by omega), Nat.add_sub_cancel_left]
  · rename_i h0 h32
    rw [Nat.min_eq_left (by omega), BitVec.getLsbD_or, getLsbD_shiftLeft_of_lt _ _ hk, BitVec.getLsbD_ushiftRight]
    split
    · rename_i hnk
      rw [decide_eq_true hnk, Bool.true_and, BitVec.getLsbD_of_ge rem _ (by omega), Bool.or_false]
    · rename_i hnk
      rw [decide_eq_false hnk, Bool.false_and, Bool.false_or, show 32 - n + k = 32 + k - n by omega]

/-- A left funnel shift is the upper word of the 64-bit one (R192). -/
theorem toNat_shiftInLeft (val rem : Word) (n : Nat) :
    (shiftInLeft val rem n).toNat = (val.toNat * 2 ^ 32 + rem.toNat) * 2 ^ min n 32 / 2 ^ 32 % 2 ^ 32 := by
  refine Nat.eq_of_testBit_eq fun k => ?_
  rw [Nat.testBit_mod_two_pow, Nat.testBit_div_two_pow, Nat.testBit_mul_two_pow, Nat.mul_comm val.toNat,
    Nat.testBit_two_pow_mul_add _ rem.isLt, BitVec.testBit_toNat, BitVec.testBit_toNat, BitVec.testBit_toNat]
  by_cases hk : k < 32
  · rw [getLsbD_shiftInLeft val rem n hk, decide_eq_true hk, Bool.true_and, decide_eq_true (by omega), Bool.true_and,
      Nat.add_comm k 32]
    by_cases hnk : min n 32 ≤ k
    · rw [if_pos hnk, if_neg (by omega), show 32 + k - min n 32 - 32 = k - min n 32 by omega]
    · rw [if_neg hnk, if_pos (by omega)]
  · rw [decide_eq_false hk, Bool.false_and, BitVec.getLsbD_of_ge _ k (Nat.le_of_not_lt hk)]

/-- Bit `k` of a right funnel shift: from the value moved down, and above it from the remainder, in place (R192). -/
theorem getLsbD_shiftInRight (val rem : Word) (n : Nat) {k : Nat} (hk : k < 32) :
    (shiftInRight val rem n).getLsbD k =
      if k + min n 32 < 32 then val.getLsbD (k + min n 32) else rem.getLsbD k := by
  have hones : ∀ j, (0xFFFFFFFF#32).getLsbD j = decide (j < 32) := fun j => BitVec.getLsbD_allOnes
  unfold shiftInRight
  split
  · rename_i h0
    subst h0
    simp [hk]
  split
  · rename_i h32
    rw [Nat.min_eq_right h32, if_neg (by omega)]
  · rename_i h0 h32
    rw [Nat.min_eq_left (by omega), BitVec.getLsbD_or, BitVec.getLsbD_and, BitVec.getLsbD_not,
      BitVec.getLsbD_ushiftRight, BitVec.getLsbD_ushiftRight, hones, decide_eq_true hk, Bool.true_and,
      Nat.add_comm n k]
    split
    · rename_i hnk
      rw [decide_eq_true hnk, Bool.not_true, Bool.and_false, Bool.or_false]
    · rename_i hnk
      rw [decide_eq_false hnk, Bool.not_false, Bool.and_true, BitVec.getLsbD_of_ge val _ (by omega), Bool.false_or]

theorem State.toNat_funnelRemainder (s : State) (v r : RegNum) (x : Bool) :
    (s.funnelRemainder v r x).toNat = if x = true ∧ (s.readReg v).toInt < 0
      then 2 ^ 32 - 1 - (s.readReg r).toNat else (s.readReg r).toNat := by
  unfold State.funnelRemainder
  rw [BitVec.msb_eq_toInt]
  by_cases h : x = true ∧ (s.readReg v).toInt < 0
  · rw [if_pos h, if_pos (by simpa using h), BitVec.toNat_not]
  · rw [if_neg h, if_neg (by simpa using h)]

theorem State.getLsbD_funnelRemainder (s : State) (v r : RegNum) (x : Bool) {k : Nat} (hk : k < 32) :
    (s.funnelRemainder v r x).getLsbD k = ((x && decide ((s.readReg v).toInt < 0)) != (s.readReg r).getLsbD k) := by
  rw [← getLsbD_invertIf _ _ hk, ← BitVec.msb_eq_toInt]
  rfl

/-- Settles O38. -/
theorem funnelLeftResult : Obligations.FunnelLeftResult := by
  intro d v q c x wr r s
  refine ⟨_, _, rfl, ?_, HasResult.of_writeReg s d _, Completes.of_writeReg s d _⟩
  rw [toNat_shiftInLeft, State.toNat_funnelRemainder]
  rfl

/-- Settles O39. -/
theorem funnelRightResult : Obligations.FunnelRightResult := by
  intro d v q c x wr r s
  refine ⟨_, _, rfl, fun k hk => ?_, HasResult.of_writeReg s d _, Completes.of_writeReg s d _⟩
  rw [getLsbD_shiftInRight _ _ _ hk, s.getLsbD_funnelRemainder v r x hk]
  rfl

/-! ### The low bits of a word, and EXT -/

/-- The low `n` bits of a word as a number. -/
theorem toNat_lowBits (v : Word) (n : BitVec 5) : (lowBits v n).toNat = v.toNat % 2 ^ n.toNat := by
  have hn : n.toNat < 32 := n.isLt
  have hpow : 2 ^ n.toNat < 2 ^ 32 := Nat.pow_lt_pow_right (by omega) hn
  have hpos : 0 < 2 ^ n.toNat := Nat.two_pow_pos _
  have hmask : (1#32 <<< n.toNat - 1#32).toNat = 2 ^ n.toNat - 1 := by
    rw [BitVec.toNat_sub, BitVec.toNat_shiftLeft, BitVec.toNat_ofNat, Nat.shiftLeft_eq]
    omega
  rw [lowBits, BitVec.toNat_and, hmask, Nat.and_two_pow_sub_one_eq_mod]

theorem getLsbD_lowBits (v : Word) (n : BitVec 5) (k : Nat) :
    (lowBits v n).getLsbD k = (decide (k < n.toNat) && v.getLsbD k) := by
  rw [← BitVec.testBit_toNat, toNat_lowBits, Nat.testBit_mod_two_pow, BitVec.testBit_toNat]

/-- Bit `k` of the result of EXT (R234). -/
theorem getLsbD_extendLow (v : Word) (n : BitVec 5) (x : ExtKind) {k : Nat} (hk : k < 32) :
    (extendLow v n x).getLsbD k = if k < n.toNat then v.getLsbD k
      else (decide (x = .sign) && decide (n ≠ 0#5) && v.getLsbD (n.toNat - 1)) := by
  have hones : ∀ j, j < 32 → (0xFFFFFFFF#32).getLsbD j = true := fun j hj =>
    BitVec.getLsbD_allOnes.trans (decide_eq_true hj)
  have hlow : (lowBits v n).getLsbD k = if k < n.toNat then v.getLsbD k else false := by
    rw [getLsbD_lowBits]
    by_cases h : k < n.toNat <;> simp [h]
  cases x with
  | zero => simpa [extendLow] using hlow
  | sign =>
    by_cases h0 : n = 0#5
    · simp [extendLow, h0]
    · cases hsign : v.getLsbD (n.toNat - 1) with
      | false => simpa [extendLow, h0, hsign] using hlow
      | true =>
        simp only [extendLow, h0, hsign, if_false, if_true, BitVec.getLsbD_or, hlow, getLsbD_shiftLeft_of_lt _ _ hk,
          hones (k - n.toNat) (by omega)]
        by_cases h : k < n.toNat
        · simp [h, Nat.not_le.2 h]
        · simp [h, h0, Nat.le_of_not_lt h]

/-- Settles O54. -/
theorem extendResult : Obligations.ExtendResult := by
  intro d r x n s
  exact ⟨_, _, rfl, fun k hk => getLsbD_extendLow _ n x hk, HasResult.of_writeReg s d _, Completes.of_writeReg s d _⟩

/-! ### LDI and LRA -/

theorem toInt_extendImm_signed (i : BitVec 16) : (extendImm true i).toInt = i.toInt :=
  BitVec.toInt_signExtend_of_le (by decide)

theorem toNat_extendImm_unsigned (i : BitVec 16) : (extendImm false i).toNat = i.toNat := by
  have hlt := i.isLt
  exact (BitVec.toNat_setWidth 32 i).trans (Nat.mod_eq_of_lt (by omega))

/-- An address and an extended offset, modulo 2^32. -/
theorem toNat_nextPc_add (s : State) (v : Word) {z : Int} (h : (v.toNat : Int) = z % 2 ^ 32) :
    ((s.nextPc + v).toNat : Int) = ((s.pc.toNat : Int) + 4 + z) % 2 ^ 32 := by
  rw [State.nextPc, BitVec.toNat_add, BitVec.toNat_add, BitVec.toNat_ofNat]
  omega

/-- Settles O33. -/
theorem immediateAndAddressResult : Obligations.ImmediateAndAddressResult := by
  refine ⟨fun d x i s => ?_, fun d x o s => ?_⟩
  · refine ⟨_, _, rfl, ?_, ?_, HasResult.of_writeReg s d _, Completes.of_writeReg s d _⟩
    · rintro rfl
      exact toInt_extendImm_signed i
    · rintro rfl
      exact toNat_extendImm_unsigned i
  · exact ⟨_, _, rfl, toNat_nextPc_add s _ (toNat_extendImm x o), HasResult.of_writeReg s d _,
      Completes.of_writeReg s d _⟩

end Sys2Proof.Machine
end

section
/-! JMP and JMPR (45_branch.md R203, R204), the flags instructions, XCHG and PAUSE (47_flags_xchg_ext.md R230 to R233,
40_und_pause.md R131): what each does, and which words it has. -/

namespace Sys2Proof.Machine

/-! ### Jumps -/

/-- The effect of a jump, taken or not, said in the words of the obligations. -/
theorem State.jump_result (s : State) (c : Cond) (l : RegNum) (target : Word) :
    (s.jump c l target).flags = s.flags ∧
    (checkCondition s.flags c = true → HasResult l (s.pc + 4#32) (s.jump c l target) ∧
      OnlyRegisters [l] s (s.jump c l target) ∧ (s.jump c l target).pc = target) ∧
    (checkCondition s.flags c = false → Completes [] s (s.jump c l target)) := by
  rcases s.jump_spec c l target with ⟨hc, hres, hpc, hflags, hframe⟩ | ⟨hc, heq⟩
  · exact ⟨hflags, fun _ => ⟨hres, hframe, hpc⟩, fun hc' => absurd hc (by simp [hc'])⟩
  · rw [heq]
    exact ⟨rfl, fun hc' => absurd hc (by simp [hc']), fun _ => .of_advance s⟩

/-- The displacement of JMP, modulo 2^32. -/
theorem toNat_jumpDisplacement (o : BitVec 15) : ((jumpDisplacement o).toNat : Int) = 4 * o.toInt % 2 ^ 32 := by
  have hext := toNat_signExtend o (by decide)
  rw [jumpDisplacement, BitVec.toNat_shiftLeft, Nat.shiftLeft_eq]
  omega

/-- Settles O42. -/
theorem jumpResult : Obligations.JumpResult := by
  intro c l o s
  obtain ⟨hflags, htaken, hnot⟩ := s.jump_result c l (s.nextPc + jumpDisplacement o)
  refine ⟨_, rfl, hflags, fun hc => ?_, hnot⟩
  obtain ⟨hres, hframe, hpc⟩ := htaken hc
  refine ⟨hres, hframe, ?_⟩
  rw [hpc]
  exact toNat_nextPc_add s _ (toNat_jumpDisplacement o)

theorem exec_jmpr_of_unaligned {s : State} {r : RegNum} (h : (s.readReg r).toNat % 4 ≠ 0) (c : Cond) (l : RegNum) :
    exec (.jmpr c l r) s = .next (s.raise .unalignedBranch) := by
  have ha : aligned (s.readReg r) .word = false := (aligned_eq_false_iff _ .word).2 h
  simp only [exec, execJmpr, ha, Bool.not_false, if_true]

theorem exec_jmpr_of_aligned {s : State} {r : RegNum} (h : (s.readReg r).toNat % 4 = 0) (c : Cond) (l : RegNum) :
    exec (.jmpr c l r) s = .next (s.jump c l (s.readReg r)) := by
  have ha : aligned (s.readReg r) .word = true := (aligned_word_iff _).2 h
  simp only [exec, execJmpr, ha, Bool.not_true, Bool.false_eq_true, if_false]

theorem decode_jmpr {w : Word} (hop : field w 0 8 = 0x11#8) (hz : field w 22 10 = 0#10) :
    decode w = .ok (.jmpr (condOfBits (field w 8 4)) (field w 12 5) (field w 17 5)) := by
  unfold decode
  rw [hop]
  exact ifZero_eq_ok (beq_iff_eq.2 hz) rfl

/-- Settles O43: the target is checked before the condition and read before the link is written. -/
theorem jumpRegisterResult : Obligations.JumpRegisterResult := by
  refine ⟨fun c l r s => ⟨fun h => exec_jmpr_of_unaligned h c l, fun h => ?_⟩, fun w => decode_jmpr,
    raisesOnReservedBits rfl⟩
  exact ⟨_, exec_jmpr_of_aligned h c l, s.jump_result c l (s.readReg r)⟩

/-! ### The flags -/

/-- The flags as a number (10_state.md R25). -/
theorem Flags.setWidth_toBits (f : Flags) : f.toBits.setWidth 32 =
    BitVec.ofNat 32 (f.c.toNat + 2 * f.v.toNat + 4 * f.n.toNat + 8 * f.z.toNat + 16 * f.p.toNat) := by
  obtain ⟨c, v, n, z, p⟩ := f
  revert c v n z p
  decide

theorem flagsOfBits_field (v : Word) : flagsOfBits (field v 0 5) =
    { c := v.getLsbD 0, v := v.getLsbD 1, n := v.getLsbD 2, z := v.getLsbD 3, p := v.getLsbD 4 } := by
  simp [flagsOfBits, field]

/-- An instruction that writes the flags and the pc alone. -/
theorem OnlyRegisters.of_advance_flags (s : State) (f : Flags) : OnlyRegisters [] s { s.advance with flags := f } :=
  .of_flags_pc s f s.nextPc

theorem decode_ldflags {w : Word} (hz : field w 13 19 = 0#19) (hop : field w 0 8 = 0x18#8) :
    decode w = .ok (.ldflags (field w 8 5)) := by
  unfold decode
  rw [hop]
  exact ifZero_eq_ok (beq_iff_eq.2 hz) rfl

theorem decode_stflags {w : Word} (hz : field w 13 19 = 0#19) (hop : field w 0 8 = 0x19#8) :
    decode w = .ok (.stflags (field w 8 5)) := by
  unfold decode
  rw [hop]
  exact ifZero_eq_ok (beq_iff_eq.2 hz) rfl

/-- Settles O51. -/
theorem loadAndStoreFlagsResult : Obligations.LoadAndStoreFlagsResult := by
  refine ⟨fun d s => ⟨_, rfl, ?_, Completes.of_writeReg s d _⟩,
    fun r s => ⟨_, rfl, flagsOfBits_field (s.readReg r), rfl, .of_advance_flags s _⟩,
    fun w hz => ⟨decode_ldflags hz, decode_stflags hz⟩, raisesOnReservedBits rfl, raisesOnReservedBits rfl⟩
  rw [← Flags.setWidth_toBits]
  exact HasResult.of_writeReg s d _

/-- The flags after XVP. -/
theorem flags_of_exec_xvp {s t : State} (h : exec .xvp s = .next t) :
    t.flags = { s.flags with v := s.flags.p, p := s.flags.v } := by
  obtain rfl := Host.Outcome.next.inj h
  rfl

/-- Settles O52: a word that decodes to XVP is XVP's own word. -/
theorem exchangeFlagsResult : Obligations.ExchangeFlagsResult := by
  refine ⟨fun s => ⟨_, rfl, rfl, rfl, .of_advance_flags s _⟩, fun s t u ht hu => ?_, fun w => ⟨fun h => ?_, ?_⟩,
    raisesOnReservedBits rfl⟩
  · rw [flags_of_exec_xvp hu, flags_of_exec_xvp ht]
  · exact (encodeOfDecode w .xvp h).symm
  · rintro rfl
    exact decodeOfEncode .xvp

/-! ### XCHG -/

/-- Both registers hold the other's old value, also where they are one. -/
theorem HasResult.of_exchange (s : State) (a b : RegNum) :
    HasResult a (s.readReg b) ((s.writeReg a (s.readReg b)).writeReg b (s.readReg a)).advance ∧
    HasResult b (s.readReg a) ((s.writeReg a (s.readReg b)).writeReg b (s.readReg a)).advance := by
  have hb := HasResult.of_writeReg (s.writeReg a (s.readReg b)) b (s.readReg a)
  refine ⟨?_, hb⟩
  by_cases hab : a = b
  · subst hab
    exact hb
  · exact (State.readReg_writeReg_other _ _ hab).trans (s.readReg_writeReg_same a _)

theorem decode_xchg {w : Word} (hop : field w 0 8 = 0x1C#8) (hz : field w 18 2 = 0#2) (hz' : field w 25 7 = 0#7) :
    decode w = .ok (.xchg (field w 8 5) (field w 13 5) (bit w 20) (condOfBits (field w 21 4))) := by
  unfold decode
  rw [hop]
  exact ifZero_eq_ok (Bool.and_eq_true_iff.2 ⟨beq_iff_eq.2 hz, beq_iff_eq.2 hz'⟩) rfl

/-- Settles O53. -/
theorem exchangeRegistersResult : Obligations.ExchangeRegistersResult := by
  refine ⟨fun a b l c s => ⟨_, rfl, fun hc => ?_, fun hc => ?_⟩, fun w => decode_xchg, raisesOnReservedBits rfl⟩
  · rw [if_pos hc]
    obtain ⟨ha, hb⟩ := HasResult.of_exchange s a b
    exact ⟨ha, hb, .of_writeReg_writeReg s a b _ _⟩
  · rw [if_neg (by simp [hc])]
    exact .of_advance s

/-! ### PAUSE -/

theorem decode_pause {w : Word} (hop : field w 0 8 = 0x01#8) (hz : field w 14 18 = 0#18) :
    decode w = .ok (.pause (field w 8 6)) := by
  unfold decode
  rw [hop]
  exact ifZero_eq_ok (beq_iff_eq.2 hz) rfl

/-- Settles O59. -/
theorem pauseResult : Obligations.PauseResult :=
  ⟨fun _ _ => rfl, fun _ => decode_pause, raisesOnReservedBits rfl⟩

end Sys2Proof.Machine
end

section
/-! IN and OUT: the bits that pass between a port and the transfer register (46_io_transfer.md R220 to R223). -/

namespace Sys2Proof.Machine

/-- Bit `k` of a transfer register that was shifted through: the old bits move down, the new ones enter at the top. -/
theorem getLsbD_shiftThrough (regval inbits : Word) (n : BitVec 5) {k : Nat} (hk : k < 32) :
    (shiftThrough regval inbits n).getLsbD k =
      if k + n.toNat < 32 then regval.getLsbD (k + n.toNat) else inbits.getLsbD (k + n.toNat - 32) := by
  have hn : n.toNat < 32 := n.isLt
  unfold shiftThrough
  split
  · rename_i h0
    subst h0
    simp [hk]
  · rw [BitVec.getLsbD_or, BitVec.getLsbD_ushiftRight, getLsbD_shiftLeft_of_lt _ _ hk, Nat.add_comm n.toNat k]
    split
    · rename_i hin
      rw [decide_eq_false (by omega), Bool.false_and, Bool.or_false]
    · rename_i hout
      rw [BitVec.getLsbD_of_ge regval _ (by omega), Bool.false_or, decide_eq_true (by omega), Bool.true_and,
        show k - (32 - n.toNat) = k + n.toNat - 32 by omega]

/-- A transfer register from which `n` bits were shifted out, zeros entering. -/
theorem toNat_shiftThrough_zero (regval : Word) (n : BitVec 5) :
    (shiftThrough regval 0#32 n).toNat = regval.toNat / 2 ^ n.toNat := by
  unfold shiftThrough
  split
  · rename_i h0
    subst h0
    exact (Nat.div_one _).symm
  · rw [BitVec.zero_shiftLeft, BitVec.or_zero, BitVec.toNat_ushiftRight, Nat.shiftRight_eq_div_pow]

/-- Settles O49. -/
theorem portInResult : Obligations.PortInResult := by
  intro d p n s
  let v := shiftThrough (s.io.get d.toFin) (s.portBits p n) n
  have hio : ∀ q : RegNum, (s.writeIo d v).io.get q.toFin = if q = d then v else s.io.get q.toFin :=
    fun q => s.io_writeIo d q v
  refine ⟨_, s.portBits p n, rfl, toNat_lowBits _ n, fun k hk => ?_, fun r hr => (hio r).trans (if_neg hr), rfl, rfl,
    .of_advance _⟩
  rw [← getLsbD_shiftThrough _ _ n hk]
  exact congrArg (fun x : Word => x.getLsbD k) ((hio d).trans (if_pos rfl))

/-- Settles O50. -/
theorem portOutResult : Obligations.PortOutResult := by
  intro r p n s
  let v := shiftThrough (s.io.get r.toFin) 0#32 n
  have hio : ∀ q : RegNum, (s.writeIo r v).io.get q.toFin = if q = r then v else s.io.get q.toFin :=
    fun q => s.io_writeIo r q v
  refine ⟨_, bitsOut (s.io.get r.toFin) n, rfl, toNat_lowBits _ n, ?_, fun q hq => (hio q).trans (if_neg hq), rfl,
    .of_advance _⟩
  rw [← toNat_shiftThrough_zero]
  exact congrArg BitVec.toNat ((hio r).trans (if_pos rfl))

end Sys2Proof.Machine
end

section
/-! MOV: the general registers, each system register of maps 1 to 4, the coprocessors' registers, and the exceptions
(41_move.md R140 to R142, 10_state.md R28 to R51); and the instructions with an illegal field value (30_encoding.md
R109). -/

namespace Sys2Proof.Machine

/-! ### The two directions -/

theorem exec_mov_fromMap {m : BitVec 4} (hm : m ≠ 0#4) (d k : RegNum) (l : Bool) (c : Cond) (s : State) :
    exec (.mov d k l c .fromMap m) s = .next (s.moveFromMap d k c m) := by
  simp only [exec, execMov, if_neg hm]

theorem exec_mov_toMap {m : BitVec 4} (hm : m ≠ 0#4) (k r : RegNum) (l : Bool) (c : Cond) (s : State) :
    exec (.mov k r l c .toMap m) s = .next (s.moveToMap k r c m) := by
  simp only [exec, execMov, if_neg hm]

theorem State.moveFromMap_of_readable {s : State} {m : BitVec 4} {k : RegNum} {r : SysReg}
    (hr : s.readable m k = some r) (d : RegNum) (c : Cond) :
    s.moveFromMap d k c m =
      if checkCondition s.flags c then ((s.sysRead r).writeReg d (s.sysValue r)).advance else s.advance := by
  simp only [State.moveFromMap, hr]

theorem State.moveToMap_of_writable {s : State} {m : BitVec 4} {k : RegNum} {r : SysReg}
    (hr : s.writable m k = some r) (x : RegNum) (c : Cond) :
    s.moveToMap k x c m =
      if checkCondition s.flags c then
        if s.validValue r (s.readReg x) then (s.sysWrite r (s.readReg x)).advance else s.raise .consistency
      else s.advance := by
  simp only [State.moveToMap, hr]

theorem State.moveFromMap_of_not_readable {s : State} {m : BitVec 4} {k : RegNum} (hr : s.readable m k = none)
    (d : RegNum) (c : Cond) : s.moveFromMap d k c m = s.raise .invalidInstruction := by
  simp only [State.moveFromMap, hr]

theorem State.moveToMap_of_not_writable {s : State} {m : BitVec 4} {k : RegNum} (hr : s.writable m k = none)
    (x : RegNum) (c : Cond) : s.moveToMap k x c m = s.raise .invalidInstruction := by
  simp only [State.moveToMap, hr]

/-- Settles O44. -/
theorem moveGeneralResult : Obligations.MoveGeneralResult := by
  intro d r l c dir s
  refine ⟨s.moveGeneral d r c, rfl, fun hc => ?_, fun hc => ?_⟩
  · rw [State.moveGeneral, if_pos hc]
    exact ⟨HasResult.of_writeReg s d _, Completes.of_writeReg s d _⟩
  · rw [State.moveGeneral, if_neg (by simp [hc])]
    exact .of_advance s

/-! ### The CPU's own system registers -/

/-- Map 0 has no system register. -/
theorem State.map_ne_zero_of_readable {s : State} {m : BitVec 4} {k : RegNum} {r : SysReg}
    (h : s.readable m k = some r) : m ≠ 0#4 := by
  rintro rfl
  cases h

theorem State.map_ne_zero_of_writable {s : State} {m : BitVec 4} {k : RegNum} {r : SysReg}
    (h : s.writable m k = some r) : m ≠ 0#4 := by
  rintro rfl
  cases h

/-- A register that is always readable and whose read changes nothing. -/
theorem MovReads.of_register {m : BitVec 4} {k : RegNum} {value : State → Word} (r : SysReg)
    (hr : ∀ s : State, s.readable m k = some r) (hread : ∀ s : State, s.sysRead r = s)
    (hvalue : ∀ s : State, s.sysValue r = value s) : MovReads m k value := by
  intro d l c s
  refine ⟨_, exec_mov_fromMap (State.map_ne_zero_of_readable (hr s)) d k l c s, ?_⟩
  rw [State.moveFromMap_of_readable (hr s), hread, hvalue]
  cases hc : checkCondition s.flags c with
  | true => exact ⟨HasResult.of_writeReg s d _, Completes.of_writeReg s d _⟩
  | false => exact Completes.of_advance s

/-- A register that is always writable. -/
theorem MovWrites.of_register {m : BitVec 4} {k : RegNum} {legal : State → Word → Prop}
    {stored : State → Word → State} (r : SysReg) (hr : ∀ s : State, s.writable m k = some r)
    (hvalid : ∀ (s : State) (v : Word), s.validValue r v = true ↔ legal s v)
    (hwrite : ∀ (s : State) (v : Word), (s.sysWrite r v).advance = { stored s v with pc := s.pc + 4#32 }) :
    MovWrites m k legal stored := by
  intro x l c s
  rw [exec_mov_toMap (State.map_ne_zero_of_writable (hr s)), State.moveToMap_of_writable (hr s), ← hvalid, ← hwrite]
  refine ⟨fun hc hv => ?_, fun hc hv => ?_, fun hc => ?_⟩
  · rw [if_pos hc, if_pos hv]
  · rw [if_pos hc, if_neg hv]
  · rw [hc]
    rfl

/-- `intctl` as a number (R33). -/
theorem intctlWord_eq : ∀ (a : Bool) (m : BitVec 2),
    BitVec.ofBool a ++ 0#29 ++ m = BitVec.ofNat 32 (2 ^ 31 * a.toNat + m.toNat) := by
  decide

/-- `inttab` as a number (R37). -/
theorem inttabWord_eq (t : BitVec 29) : t ++ 0#3 = BitVec.ofNat 32 (8 * t.toNat) := by
  have ht := t.isLt
  refine BitVec.eq_of_toNat_eq ?_
  rw [BitVec.toNat_append, BitVec.toNat_ofNat, BitVec.toNat_ofNat, Nat.shiftLeft_eq, Nat.zero_mod, Nat.or_zero]
  omega

/-- Settles O45, register by register. -/
theorem moveFromSystemRegister : Obligations.MoveFromSystemRegister := by
  refine ⟨.of_register .intctl (fun _ => rfl) (fun _ => rfl) (fun s => intctlWord_eq s.abort s.mask),
    .of_register .intret1 (fun _ => rfl) (fun _ => rfl) (fun _ => rfl),
    .of_register .intret2 (fun _ => rfl) (fun _ => rfl) (fun _ => rfl),
    .of_register .intret3 (fun _ => rfl) (fun _ => rfl) (fun _ => rfl),
    fun j => .of_register (.ints j) (fun _ => ?_) (fun _ => rfl) (fun _ => rfl),
    fun j => .of_register (.intd j) (fun _ => ?_) (fun _ => rfl) (fun _ => rfl),
    .of_register .inttab (fun _ => rfl) (fun _ => rfl) (fun s => inttabWord_eq s.inttab),
    fun k => .of_register (.io k) (fun _ => rfl) (fun _ => rfl) (fun _ => rfl),
    fun k => .of_register (.info k) (fun _ => rfl) (fun _ => rfl) (fun _ => rfl),
    .of_register .cpe (fun _ => rfl) (fun _ => rfl) (fun s => (BitVec.ofNat_toNat 32 s.cpe).symm),
    .of_register .cpp (fun _ => rfl) (fun _ => rfl)
      (fun s => (BitVec.ofNat_toNat 32 s.plat.cpPresent).symm)⟩
  · match j with
    | 0 | 1 | 2 | 3 => rfl
  · match j with
    | 0 | 1 | 2 | 3 => rfl

/-! ### The values a write accepts, as numbers -/

theorem toNat_field (w : Word) (lo n : Nat) : (field w lo n).toNat = w.toNat / 2 ^ lo % 2 ^ n := by
  rw [field, BitVec.extractLsb'_toNat, Nat.shiftRight_eq_div_pow]

theorem field_eq_ofNat (w : Word) (lo n : Nat) : field w lo n = BitVec.ofNat n (w.toNat / 2 ^ lo) := by
  refine BitVec.eq_of_toNat_eq ?_
  rw [toNat_field, BitVec.toNat_ofNat]

theorem field_beq_zero_iff (w : Word) (lo n : Nat) : (field w lo n == 0#n) = true ↔ w.toNat / 2 ^ lo % 2 ^ n = 0 := by
  rw [beq_iff_eq, ← BitVec.toNat_inj, toNat_field, BitVec.toNat_ofNat, Nat.zero_mod]

theorem bit_31_eq (v : Word) : bit v 31 = decide (2 ^ 31 ≤ v.toNat) :=
  (BitVec.msb_eq_getLsbD_last v).symm.trans (BitVec.msb_eq_decide v)

/-- A value enables only present coprocessors exactly when no bit of it is outside CP_PRESENT (R45). -/
theorem field_and_not_eq_zero_iff (v : Word) (present : BitVec 8) :
    (field v 0 8 &&& ~~~present == 0#8) = true ↔ ∀ n, n < 8 → v.getLsbD n = true → present.getLsbD n = true := by
  have hbit : ∀ n, n < 8 → (field v 0 8).getLsbD n = v.getLsbD n := fun n hn => by
    rw [field, BitVec.getLsbD_extractLsb', decide_eq_true hn, Bool.true_and, Nat.zero_add]
  rw [beq_iff_eq]
  constructor
  · intro h n hn hv
    have hzero := congrArg (fun x : BitVec 8 => x.getLsbD n) h
    simpa [hbit n hn, hv, hn] using hzero
  · intro h
    refine BitVec.eq_of_getLsbD_eq fun n hn => ?_
    rw [BitVec.getLsbD_and, BitVec.getLsbD_not, hbit n hn, decide_eq_true hn, Bool.true_and, BitVec.getLsbD_zero]
    cases hv : v.getLsbD n with
    | false => rfl
    | true => rw [h n hn hv]; rfl

theorem validValue_intctl_iff (s : State) (v : Word) : s.validValue .intctl v = true ↔ v.toNat % 2 ^ 31 < 4 := by
  rw [State.validValue, field_beq_zero_iff]
  omega

theorem validValue_inttab_iff (s : State) (v : Word) : s.validValue .inttab v = true ↔ v.toNat % 8 = 0 := by
  rw [State.validValue, field_beq_zero_iff, pow_zero, Nat.div_one]
  rfl

theorem validValue_cpe_iff (s : State) (v : Word) : s.validValue .cpe v = true ↔
    v.toNat < 256 ∧ ∀ n, n < 8 → v.getLsbD n = true → s.plat.cpPresent.getLsbD n = true := by
  have hlt := v.isLt
  rw [State.validValue, Bool.and_eq_true, field_beq_zero_iff, field_and_not_eq_zero_iff]
  refine and_congr_left fun _ => ?_
  omega

/-- The plain registers accept every value. -/
theorem validValue_plain {s : State} {v : Word} {r : SysReg} (h : s.validValue r v = true) :
    s.validValue r v = true ↔ True := iff_of_true h trivial

/-- Settles O46, register by register. -/
theorem moveToSystemRegister : Obligations.MoveToSystemRegister := by
  refine ⟨.of_register .intctl (fun _ => rfl) validValue_intctl_iff (fun s v => ?_),
    .of_register .intret1 (fun _ => rfl) (fun _ _ => validValue_plain rfl) (fun _ _ => rfl),
    .of_register .intret2 (fun _ => rfl) (fun _ _ => validValue_plain rfl) (fun _ _ => rfl),
    .of_register .intret3 (fun _ => rfl) (fun _ _ => validValue_plain rfl) (fun _ _ => rfl),
    fun j => .of_register (.ints j) (fun _ => ?_) (fun _ _ => validValue_plain rfl) (fun _ _ => rfl),
    fun j => .of_register (.intd j) (fun _ => ?_) (fun _ _ => validValue_plain rfl) (fun _ _ => rfl),
    .of_register .inttab (fun _ => rfl) validValue_inttab_iff (fun s v => ?_),
    fun k => .of_register (.io k) (fun _ => rfl) (fun _ _ => validValue_plain rfl) (fun _ _ => rfl),
    .of_register .cpe (fun _ => rfl) validValue_cpe_iff (fun s v => ?_)⟩
  · rw [State.sysWrite, bit_31_eq, field_eq_ofNat, pow_zero, Nat.div_one]
    rfl
  · match j with
    | 0 | 1 | 2 | 3 => rfl
  · match j with
    | 0 | 1 | 2 | 3 => rfl
  · rw [State.sysWrite, field_eq_ofNat]
    rfl
  · rw [State.sysWrite, field_eq_ofNat, pow_zero, Nat.div_one]
    rfl

/-! ### Illegal field values and inaccessible registers -/

theorem MovRaises.of_not_readable {s : State} {m : BitVec 4} {k : RegNum} (hm : m ≠ 0#4)
    (h : s.readable m k = none) : MovRaises .fromMap m k s := by
  intro r l c
  exact (exec_mov_fromMap hm r k l c s).trans (congrArg _ (State.moveFromMap_of_not_readable h r c))

theorem MovRaises.of_not_writable {s : State} {m : BitVec 4} {k : RegNum} (hm : m ≠ 0#4)
    (h : s.writable m k = none) : MovRaises .toMap m k s := by
  intro r l c
  exact (exec_mov_toMap hm k r l c s).trans (congrArg _ (State.moveToMap_of_not_writable h r c))

theorem State.not_writable_of_not_readable {s : State} {m : BitVec 4} {k : RegNum} (h : s.readable m k = none) :
    s.writable m k = none := by
  simp only [State.writable, h]

/-- The registers that no state lets MOV read do not exist (R50). -/
theorem sysRegister_of_mapRegLegal_fromMap : ∀ (m : BitVec 4) (k : RegNum), mapRegLegal .fromMap m k = false →
    m ≠ 0#4 ∧ sysRegister m k = none := by
  decide

/-- The registers that no state lets MOV write do not exist, or are read-only (R50). -/
theorem sysRegister_of_mapRegLegal_toMap : ∀ (m : BitVec 4) (k : RegNum), mapRegLegal .toMap m k = false →
    m ≠ 0#4 ∧ (sysRegister m k).all (fun r => !sysRegWritable r) = true := by
  decide

theorem State.not_readable_of_no_register {m : BitVec 4} {k : RegNum} (h : sysRegister m k = none) (s : State) :
    s.readable m k = none := by
  simp only [State.readable, h]

theorem State.not_writable_of_readOnly {m : BitVec 4} {k : RegNum}
    (h : (sysRegister m k).all (fun r => !sysRegWritable r) = true) (s : State) : s.writable m k = none := by
  cases hw : s.writable m k with
  | none => rfl
  | some r =>
    obtain ⟨hr, hwritable⟩ := State.sysRegister_of_writable hw
    simp [hr, hwritable] at h

/-- A MOV that fails the static check raises EX[2] in every state. -/
theorem MovRaises.of_illegal {dir : Direction} {m : BitVec 4} {k : RegNum} (h : mapRegLegal dir m k = false)
    (s : State) : MovRaises dir m k s := by
  cases dir with
  | fromMap =>
    obtain ⟨hm, hr⟩ := sysRegister_of_mapRegLegal_fromMap m k h
    exact .of_not_readable hm (State.not_readable_of_no_register hr s)
  | toMap =>
    obtain ⟨hm, hr⟩ := sysRegister_of_mapRegLegal_toMap m k h
    exact .of_not_writable hm (State.not_writable_of_readOnly hr s)

/-- Settles O9: the static check looks at ST, LD and MOV alone. -/
theorem illFormedRaises : Obligations.IllFormedRaises := by
  intro i s h
  cases i with
  | st d x wd m => exact congrArg Host.Outcome.next (State.withAccess_of_illegal h .write _)
  | ld d x wd m => exact congrArg Host.Outcome.next (State.withAccess_of_illegal h .read _)
  | mov d x l c dir m =>
    cases dir with
    | fromMap => exact MovRaises.of_illegal (dir := .fromMap) h s d l c
    | toMap => exact MovRaises.of_illegal (dir := .toMap) h s x l c
  | _ => cases h

/-- The numbers that name no register of map 1 and of map 4 (R29, R43). -/
theorem mapRegLegal_of_gap : ∀ (dir : Direction) (k : RegNum),
    (12 ≤ k.toNat → k.toNat ≤ 30 → mapRegLegal dir 1#4 k = false) ∧
    (8 ≤ k.toNat → k.toNat ≤ 29 → mapRegLegal dir 4#4 k = false) := by
  intro dir
  cases dir <;> decide

/-! ### The coprocessors' registers -/

/-- Register `n` of map 4 is the control word of coprocessor `n` (R42). -/
theorem sysRegister_cpControl (n : BitVec 3) : sysRegister 4#4 (n.setWidth 5) = some (.cpControl n) := by
  rcases coprocessorNumber_cases n with rfl | rfl | rfl | rfl | rfl | rfl | rfl | rfl <;> rfl

/-- The registers of map `8 + n` are those of coprocessor `n` (R49). -/
theorem sysRegister_cpReg (n : BitVec 3) (k : RegNum) : sysRegister (8#4 + n.setWidth 4) k = some (.cpReg n k) := by
  rcases coprocessorNumber_cases n with rfl | rfl | rfl | rfl | rfl | rfl | rfl | rfl <;> rfl

theorem cpMap_ne_zero : ∀ n : BitVec 3, 8#4 + n.setWidth 4 ≠ 0#4 := by decide

theorem State.not_readable_of_not_accessible {s : State} {m : BitVec 4} {k : RegNum} {r : SysReg}
    (hr : sysRegister m k = some r) (h : s.sysAccessible r = false) : s.readable m k = none := by
  simp only [State.readable, hr, h, Bool.false_eq_true, if_false]

theorem State.readable_of_accessible {s : State} {m : BitVec 4} {k : RegNum} {r : SysReg}
    (hr : sysRegister m k = some r) (h : s.sysAccessible r = true) : s.readable m k = some r := by
  simp only [State.readable, hr, h, if_true]

theorem State.writable_of_accessible {s : State} {m : BitVec 4} {k : RegNum} {r : SysReg}
    (hr : sysRegister m k = some r) (h : s.sysAccessible r = true) (hw : sysRegWritable r = true) :
    s.writable m k = some r := by
  simp only [State.writable, State.readable_of_accessible hr h, hw, if_true]

/-- A register that is not accessible now raises EX[2], read or written. -/
theorem MovRaises.of_not_accessible {s : State} {m : BitVec 4} {k : RegNum} {r : SysReg} (hm : m ≠ 0#4)
    (hr : sysRegister m k = some r) (h : s.sysAccessible r = false) :
    MovRaises .fromMap m k s ∧ MovRaises .toMap m k s := by
  have hreadable := State.not_readable_of_not_accessible hr h
  exact ⟨.of_not_readable hm hreadable, .of_not_writable hm (State.not_writable_of_not_readable hreadable)⟩

/-- Settles O47: the registers that no state lets MOV reach, and those that this state does not. -/
theorem moveAccessTraps : Obligations.MoveAccessTraps := by
  intro k s
  refine ⟨fun hlo hhi => ?_, .of_illegal rfl s, fun hlo hhi => ?_, .of_illegal rfl s, fun n h => ?_, fun m hm => ?_,
    fun n h => ?_⟩
  · obtain ⟨hfrom, -⟩ := mapRegLegal_of_gap .fromMap k
    obtain ⟨hto, -⟩ := mapRegLegal_of_gap .toMap k
    exact ⟨.of_illegal (hfrom hlo hhi) s, .of_illegal (hto hlo hhi) s⟩
  · obtain ⟨-, hfrom⟩ := mapRegLegal_of_gap .fromMap k
    obtain ⟨-, hto⟩ := mapRegLegal_of_gap .toMap k
    exact ⟨.of_illegal (hfrom hlo hhi) s, .of_illegal (hto hlo hhi) s⟩
  · refine MovRaises.of_not_accessible (by decide) (sysRegister_cpControl n) ?_
    rw [State.sysAccessible, Bool.and_eq_false_iff]
    exact h.symm
  · rcases hm with rfl | rfl | rfl <;> exact ⟨.of_illegal rfl s, .of_illegal rfl s⟩
  · refine MovRaises.of_not_accessible (cpMap_ne_zero n) (sysRegister_cpReg n k) ?_
    rw [State.sysAccessible, Bool.and_eq_false_iff, ← Bool.not_eq_true (List.contains _ _), List.contains_iff_mem]
    exact h

/-- Register `k` of map `m` is the coprocessor's register `r`: it can be read and written now, and each access of it is
a call to the coprocessor. -/
def IsCoprocessorRegister (s : State) (m : BitVec 4) (k : RegNum) (r : SysReg) : Prop :=
  s.readable m k = some r ∧ s.writable m k = some r ∧ s.sysValue r = s.cpValue m k ∧ s.sysRead r = s.cpRead m k ∧
    ∀ v, s.validValue r v = s.cpValueValid m k v ∧ s.sysWrite r v = s.cpWrite m k v

theorem IsCoprocessorRegister.of_cpControl {s : State} {n : BitVec 3} (he : s.cpEnabled n = true)
    (hp : s.cpPresent n = true) : IsCoprocessorRegister s 4#4 (n.setWidth 5) (.cpControl n) := by
  have ha : s.sysAccessible (.cpControl n) = true := Bool.and_eq_true_iff.2 ⟨hp, he⟩
  exact ⟨State.readable_of_accessible (sysRegister_cpControl n) ha,
    State.writable_of_accessible (sysRegister_cpControl n) ha rfl, rfl, rfl, fun _ => ⟨rfl, rfl⟩⟩

theorem IsCoprocessorRegister.of_cpReg {s : State} {n : BitVec 3} {k : RegNum} (he : s.cpEnabled n = true)
    (hk : (n, k) ∈ s.plat.cpRegs) : IsCoprocessorRegister s (8#4 + n.setWidth 4) k (.cpReg n k) := by
  have ha : s.sysAccessible (.cpReg n k) = true := Bool.and_eq_true_iff.2 ⟨he, List.contains_iff_mem.2 hk⟩
  exact ⟨State.readable_of_accessible (sysRegister_cpReg n k) ha,
    State.writable_of_accessible (sysRegister_cpReg n k) ha rfl, rfl, rfl, fun _ => ⟨rfl, rfl⟩⟩

/-- A read that is recorded, and the destination's write. -/
theorem Completes.of_cpRead (s : State) (m : BitVec 4) (k d : RegNum) (v : Word) :
    Completes [d]
      { s with log := ((s.cpRead m k).writeReg d v).log, cpAnswers := ((s.cpRead m k).writeReg d v).cpAnswers }
      ((s.cpRead m k).writeReg d v).advance := by
  rw [State.writeReg_log, State.writeReg_cpAnswers]
  exact .of_writeReg (s.cpRead m k) d v

/-- Settles O48. -/
theorem moveCoprocessorRegister : Obligations.MoveCoprocessorRegister := by
  intro m n k d l c s he haccess
  obtain ⟨r, hreadable, hwritable, hvalue, hread, hcalls⟩ : ∃ r, IsCoprocessorRegister s m k r := by
    rcases haccess with ⟨rfl, rfl, hp⟩ | ⟨rfl, hk⟩
    · exact ⟨_, .of_cpControl he hp⟩
    · exact ⟨_, .of_cpReg he hk⟩
  have hm : m ≠ 0#4 := State.map_ne_zero_of_readable hreadable
  obtain ⟨hvalid, hwrite⟩ := hcalls (s.readReg d)
  rw [exec_mov_fromMap hm, exec_mov_toMap hm, State.moveFromMap_of_readable hreadable,
    State.moveToMap_of_writable hwritable, hread, hvalue, hvalid, hwrite]
  refine ⟨fun hc => ⟨⟨_, rfl, ?_⟩, fun hv => ?_, fun hv => ?_⟩, fun hc => ?_⟩
  · rw [if_pos hc]
    exact ⟨HasResult.of_writeReg (s.cpRead m k) d _, State.writeReg_log _ d _, State.writeReg_cpAnswers _ d _,
      .of_cpRead s m k d _⟩
  · rw [if_pos hc, if_pos hv]
    rfl
  · rw [if_pos hc, if_neg (by simp [hv])]
  · rw [if_neg (by simp [hc]), if_neg (by simp [hc])]
    exact ⟨rfl, rfl⟩

end Sys2Proof.Machine
end
